-- ==== Sys2Proof/Word.lean ====
section
/-! DEFINITION. The word types of PHPC: what the spec treats as bits, and nothing else. -/

namespace Sys2Proof

/-- R7 WORD_BITS, R9: a word is a vector of 32 bits, bit 31 the most significant. -/
abbrev Word := BitVec 32

/-- R150: a Float, held as its bits in 64 (R345 gives FXVAL_OUT 64 bits): an IEEE 754 binary64 value where
FLOAT_FMT is the format R8 takes; a narrower format stands in the low bits (log 22). -/
abbrev F64 := BitVec 64

/-- R30, R7 SAMPLE_BITS: one raw sample, a signed 16-bit integer in two's complement. -/
abbrev Sample := BitVec 16

end Sys2Proof
end

