-- ==== Sys2Proof/Machine/Record.lean ====
section
/-! DEFINITION. The record bank REC (R29 to R31): the prologue, the trailer record, the context record,
the names of their members, and the one function that reads and the one that writes a member by name. -/

namespace Sys2Proof.Machine

/-- R28: PTYPE. The value 3 is never produced (U4), so it has no constructor. -/
inductive PacketType where
  | invalid | data | context
deriving DecidableEq, Repr, Inhabited

/-- R29: REC.kind. The value 3 is never produced (U4), so it has no constructor. -/
inductive RecKind where
  | none | data | context
deriving DecidableEq, Repr, Inhabited

/-- R29: the prologue record, common to both packet kinds. -/
structure Prologue where
  /-- header bits [31:28] -/
  type     : BitVec 4
  /-- header bits [27:20], carried opaque (R172) -/
  hdrFlags : BitVec 8
  /-- the modulo-16 packet count, header bits [19:16] -/
  count    : BitVec 4
  /-- the packet-size field H, header bits [15:0] -/
  size     : BitVec 16
  /-- word 1 -/
  streamId : Word
  /-- word 2 -/
  tsInt    : Word
  /-- words 3 (high half) and 4 -/
  tsFrac   : BitVec 64
deriving DecidableEq, Repr, Inhabited

/-- R210: the names of the five trailer pairs. -/
inductive TrailerName where
  | calibratedTime | validData | referenceLock | overRange | sampleLoss
deriving DecidableEq, Repr, Inhabited

/-- R30: the trailer record. A pair is `none` when its enable bit is 0. -/
structure Trailer where
  calibratedTime : Option Bool
  validData      : Option Bool
  referenceLock  : Option Bool
  overRange      : Option Bool
  sampleLoss     : Option Bool
  /-- the associated context packet count, `none` when trailer bit 7 is 0 -/
  ctxCount       : Option (BitVec 6)
deriving DecidableEq, Repr, Inhabited

/-- A trailer record with every member absent. -/
def Trailer.empty : Trailer := ⟨none, none, none, none, none, none⟩

/-- R30: `trl.pair[p]`, the trailer's pairs read as a mapping from name to optional Boolean. -/
def Trailer.pair (t : Trailer) : TrailerName → Option Bool
  | .calibratedTime => t.calibratedTime
  | .validData => t.validData
  | .referenceLock => t.referenceLock
  | .overRange => t.overRange
  | .sampleLoss => t.sampleLoss

/-- R30: `trl.pair[p] <- v`. -/
def Trailer.setPair (t : Trailer) (v : Option Bool) : TrailerName → Trailer
  | .calibratedTime => { t with calibratedTime := v }
  | .validData => { t with validData := v }
  | .referenceLock => { t with referenceLock := v }
  | .overRange => { t with overRange := v }
  | .sampleLoss => { t with sampleLoss := v }

/-- R31, R256: the geolocation record. -/
structure Geo where
  g0                : Word
  tsInt             : Word
  tsFrac            : BitVec 64
  latitude          : F64
  longitude         : F64
  altitude          : F64
  speedOverGround   : F64
  headingAngle      : F64
  trackAngle        : F64
  magneticVariation : F64
deriving DecidableEq, Repr, Inhabited

/-- R31, R241: the name of an optional member of REC.ctx: those of rule R31, and names for the members of
another table (R241). No table has more than 32 rows, since their bits are distinct bits of one word. -/
inductive FieldName where
  | changeIndicator | referencePointId | bandwidth | ifRefFreq | rfRefFreq | rfRefFreqOffset
  | ifBandOffset | referenceLevel | gain | overRangeCount | sampleRate | timestampAdjustment
  | timestampCalTime | temperature | deviceId | stateEventIndicators | dataPayloadFormat | geolocation
  /-- a member that R31 does not name -/
  | other (k : Fin 14)
deriving DecidableEq, Repr, Inhabited

/-- Where the member stands in `ContextRec.fields`. -/
def FieldName.index : FieldName → Fin 32
  | .changeIndicator => 0
  | .referencePointId => 1
  | .bandwidth => 2
  | .ifRefFreq => 3
  | .rfRefFreq => 4
  | .rfRefFreqOffset => 5
  | .ifBandOffset => 6
  | .referenceLevel => 7
  | .gain => 8
  | .overRangeCount => 9
  | .sampleRate => 10
  | .timestampAdjustment => 11
  | .timestampCalTime => 12
  | .temperature => 13
  | .deviceId => 14
  | .stateEventIndicators => 15
  | .dataPayloadFormat => 16
  | .geolocation => 17
  | .other k => ⟨18 + k.val, by omega⟩

/-- R31, R250 to R256: what a present member of REC.ctx holds. Its row's decode function says which of these
(`FieldDec.fits`). -/
inductive FieldValue where
  /-- NONE: the member is a bare presence flag -/
  | flag
  /-- RAW1 -/
  | word (w : Word)
  /-- RAW2, DEVID -/
  | pair (w0 w1 : Word)
  /-- FREQ, FX16 -/
  | float (x : F64)
  /-- GEO -/
  | geo (G : Geo)
deriving DecidableEq, Repr, Inhabited

/-- R31: the context part of REC. A member is `none` when it is absent. -/
structure ContextRec where
  /-- the indicator word as found -/
  indicator   : Word
  /-- the indicator bits that no table row names (R94) -/
  unknownBits : Word
  /-- the optional members, by `FieldName.index` -/
  fields      : Vector (Option FieldValue) 32
deriving DecidableEq, Repr, Inhabited

/-- A context record with indicator 0 and every member absent. -/
def ContextRec.empty : ContextRec := ⟨0, 0, Vector.replicate 32 none⟩

/-- `REC.ctx[name]`. -/
def ContextRec.get (x : ContextRec) (name : FieldName) : Option FieldValue := x.fields[name.index]

/-- `REC.ctx[name] <- v`. -/
def ContextRec.set (x : ContextRec) (name : FieldName) (v : Option FieldValue) : ContextRec :=
  { x with fields := x.fields.set name.index v }

/-- R29 to R31: REC. The sample stores and NSAMP stand beside it in the machine's state. -/
structure Record where
  kind : RecKind
  pro  : Prologue
  /-- `REC.data.trl` -/
  trl  : Trailer
  /-- `REC.ctx` -/
  ctx  : ContextRec
deriving DecidableEq, Repr, Inhabited

end Sys2Proof.Machine
end

