-- ==== Sys2Proof/Config.lean ====
section
/-! DEFINITION. The configuration of an instance of PHPC (R34): the parameters the document leaves open (R8),
and the free values: constants without a body, which no proof can evaluate. No operation changes any of them and
no register holds them. The values the spec takes are in `Sys2Proof/Machine/Params.lean`. -/

namespace Sys2Proof

open Sys2Proof.Machine

/-- R12, R8 FX_ROUND: the rounding mode of `toFixed`. -/
inductive FxRound where
  /-- toward zero -/
  | trunc
  /-- to nearest, the even integer on a tie -/
  | nearestEven
  /-- to nearest, away from zero on a tie -/
  | nearestAway
deriving DecidableEq, Repr, Inhabited

/-- R210: one row of TRAILER_PAIRS. -/
structure TrailerPair where
  name      : TrailerName
  enable    : Nat
  indicator : Nat
deriving DecidableEq, Repr, Inhabited

/-- R241: the decode function of a FIELD_TABLE row. Its number of input words is `FieldDec.width`, the type of
the member it decodes into `FieldDec.fits`. -/
inductive FieldDec where
  /-- R250, NONE: a bare presence flag -/
  | none
  /-- R251, RAW1 -/
  | raw1
  /-- R251, RAW2 -/
  | raw2
  /-- R252, FREQ -/
  | freq
  /-- R253, FX16(frac) -/
  | fx16 (frac : Nat)
  /-- R254, DEVID -/
  | devid
  /-- R256, GEO -/
  | geo
deriving DecidableEq, Repr, Inhabited

/-- R241: one row of FIELD_TABLE: the member it decodes into, the indicator bit that gates it, and its decode
function (which gives its width). -/
structure FieldRow where
  name : FieldName
  bit  : Nat
  dec  : FieldDec
deriving DecidableEq, Repr, Inhabited

/-- R8 FLOAT_FMT, R150: a binary floating-point format with a sign bit, `expBits` exponent bits and `fracBits`
fraction bits, read as IEEE 754 reads its binary formats (log 22). -/
structure FloatFmt where
  expBits  : Nat
  fracBits : Nat
deriving DecidableEq, Repr, Inhabited

/-- R81: the eleven operations. -/
inductive Op where
  | normalize | peek | decodeData | decodeContext | encodeData | encodeContext
  | toFixed | toFloat | packHeader | packTrailer | packIndicator
deriving DecidableEq, Repr, Inhabited

/-! ## Free values (log 2, 4, 13): no body, so nothing can prove a value of them -/

/-- U13: sign and payload of the NaN that a product gives, per pair of operands. -/
opaque Config.freeNan : F64 → F64 → Bool × BitVec 64
/-- U1: what an IBUF word reads as that the transport has not written, per epoch and index. -/
opaque Config.freeIbuf : Nat → Nat → Word
/-- U1, U3: what an OBUF word reads as that nothing has written since the epoch began. -/
opaque Config.freeObuf : Nat → Nat → Word
/-- U1, U3: what a RAWIQ entry reads as that nothing has written since the epoch began. -/
opaque Config.freeRawiq : Nat → Nat → Sample
/-- U1, U3: what a SCALED entry reads as that nothing has written since the epoch began. -/
opaque Config.freeScaled : Nat → Nat → F64
/-- U3: the members of REC other than `kind` after a decode that failed. -/
opaque Config.freeRecord : Nat → Record
/-- U3: NSAMP after a decode that failed. -/
opaque Config.freeNsamp : Nat → BitVec 18
/-- U3: PTYPE after a PEEK that failed. -/
opaque Config.freePtype : Nat → PacketType
/-- U3: PCODE after a PEEK that failed. -/
opaque Config.freePcode : Nat → BitVec 4
/-- U3: PSIZE after a PEEK that failed. -/
opaque Config.freePsize : Nat → BitVec 16
/-- U3: N_OUT after an encode that failed: any value that R23 allows the register. -/
opaque Config.freeNOut : Nat → Fin 65537
/-- U3: FXINT_OUT after a TO_FIXED that failed. -/
opaque Config.freeFxint : Nat → BitVec 64

/-! ## The parameters (R8) -/

/-- R8, R34: what an instance of PHPC fixes. The header positions are given by their lowest bit, since R7
fixes the widths. -/
structure Config where
  /-- HOST_BIG_ENDIAN -/
  hostBigEndian     : Bool
  /-- TYPE_POS -/
  typeLsb           : Nat
  /-- HDRFLAGS_POS -/
  hdrFlagsLsb       : Nat
  /-- COUNT_POS -/
  countLsb          : Nat
  /-- SIZE_POS -/
  sizeLsb           : Nat
  /-- TYPE_DATA -/
  typeData          : BitVec 4
  /-- TYPE_CONTEXT -/
  typeContext       : BitVec 4
  /-- SAMPLE_I_HIGH -/
  sampleIHigh       : Bool
  /-- TRAILER_PAIRS -/
  trailerPairs      : List TrailerPair
  /-- TRAILER_COUNT_LSB -/
  trailerCountLsb   : Nat
  /-- FIELD_TABLE -/
  fieldTable        : List FieldRow
  /-- GEO_SKIP_WHEN_ABSENT -/
  geoSkipWhenAbsent : Bool
  /-- FX_ROUND -/
  fxRound           : FxRound
  /-- FLOAT_FMT -/
  floatFmt          : FloatFmt
  /-- FRAC_HEADING -/
  fracHeading       : Nat
  /-- refScale (R206): any function of the reference level -/
  refScale          : F64 → F64
  /-- BUF_WORDS -/
  bufWords          : Nat
  /-- OPCODES: the selector of each operation -/
  opcodes           : Op → BitVec 4

end Sys2Proof
end

