-- ==== Sys2Proof/Machine/Float.lean ====
section
/-! DEFINITION. Numerics (R12, R141 to R150, R205, R206): the values of a binary floating-point format, the one
rounding of an exact dyadic number, `toFloat`, `toFixed`, the product, and the scale factor. Every result is
computed exactly in integers and rounded once. The format is an argument (R8 FLOAT_FMT). -/

namespace Sys2Proof

/-- R8 FLOAT_FMT, the value taken: IEEE 754 binary64. -/
def FloatFmt.binary64 : FloatFmt := ⟨11, 52⟩

end Sys2Proof

namespace Sys2Proof.Machine

/-! ## The values of a format (R150) -/

/-- The sign bit of a Float. -/
def floatSign (fmt : FloatFmt) (x : F64) : Bool := x.getLsbD (fmt.expBits + fmt.fracBits)

/-- The exponent bits of a Float. -/
def floatExp (fmt : FloatFmt) (x : F64) : Nat := (x.extractLsb' fmt.fracBits fmt.expBits).toNat

/-- The fraction bits of a Float. -/
def floatFrac (fmt : FloatFmt) (x : F64) : Nat := (x.extractLsb' 0 fmt.fracBits).toNat

/-- The exponent of all ones, which the infinities and the NaNs have. -/
def floatExpMax (fmt : FloatFmt) : Nat := 2 ^ fmt.expBits - 1

/-- R150: the exponent is all ones and the fraction is not 0. -/
def floatIsNan (fmt : FloatFmt) (x : F64) : Bool :=
  floatExp fmt x == floatExpMax fmt && floatFrac fmt x != 0

/-- R150: the exponent is all ones and the fraction is 0. -/
def floatIsInf (fmt : FloatFmt) (x : F64) : Bool :=
  floatExp fmt x == floatExpMax fmt && floatFrac fmt x == 0

/-- Neither a NaN nor an infinity. -/
def floatIsFinite (fmt : FloatFmt) (x : F64) : Bool := floatExp fmt x != floatExpMax fmt

/-- The power of two that the least positive Float is: -1074 for binary64. -/
def floatMinScale (fmt : FloatFmt) : Int := 2 - 2 ^ (fmt.expBits - 1) - fmt.fracBits

/-- The integer significand of a finite Float: its magnitude is `floatMant x * 2 ^ floatScale x`. -/
def floatMant (fmt : FloatFmt) (x : F64) : Nat :=
  if floatExp fmt x = 0 then floatFrac fmt x else 2 ^ fmt.fracBits + floatFrac fmt x

/-- The power of two that scales the significand of a finite Float. -/
def floatScale (fmt : FloatFmt) (x : F64) : Int :=
  if floatExp fmt x = 0 then floatMinScale fmt else (floatExp fmt x : Int) - 1 + floatMinScale fmt

/-- The exponent and fraction bits of an infinity. -/
def floatInfMag (fmt : FloatFmt) : Nat := floatExpMax fmt * 2 ^ fmt.fracBits

/-- The Float with this sign and these exponent and fraction bits. -/
def floatOf (fmt : FloatFmt) (neg : Bool) (mag : Nat) : F64 :=
  (BitVec.ofBool neg).setWidth 64 <<< (fmt.expBits + fmt.fracBits) ||| BitVec.ofNat 64 mag

/-- An infinity of the given sign. -/
def floatInf (fmt : FloatFmt) (neg : Bool) : F64 := floatOf fmt neg (floatInfMag fmt)

/-- A NaN of the given sign and payload, as much of it as the format has room for; the payload 0, which would be
an infinity, stands for 1. -/
def floatNan (fmt : FloatFmt) (bits : Bool × BitVec 64) : F64 :=
  let payload := bits.2.toNat % 2 ^ fmt.fracBits
  floatOf fmt bits.1 (floatInfMag fmt + if payload = 0 then 1 else payload)

/-! ## Rounding (R12, R143, R144) -/

/-- R12 `rint`, on a magnitude: `m / 2^k` rounded to an integer. Every mode is symmetric in the sign. -/
def roundMag (mode : FxRound) (m k : Nat) : Nat :=
  let q := m / 2 ^ k
  let r := m % 2 ^ k
  match mode with
  | .trunc => q
  | .nearestEven => if 2 ^ k < 2 * r ∨ (2 * r = 2 ^ k ∧ q % 2 = 1) then q + 1 else q
  | .nearestAway => if 2 ^ k ≤ 2 * r then q + 1 else q

/-- `m * 2^e` rounded to an integer under `mode` (exact when `0 ≤ e`). -/
def rintMag (mode : FxRound) (m : Nat) (e : Int) : Nat :=
  if 0 ≤ e then m * 2 ^ e.toNat else roundMag mode m (-e).toNat

/-- The exponent and fraction bits of the Float nearest to `m * 2^e`, ties to even: the unit in the last place
is `2^q`, the significand is rounded to it, and a carry out of the significand moves the exponent. -/
def roundToFloatMag (fmt : FloatFmt) (m : Nat) (e : Int) : Nat :=
  if m = 0 then 0
  else
    let q : Int := max ((Nat.log2 m : Int) + e - fmt.fracBits) (floatMinScale fmt)
    let sig := rintMag .nearestEven m (e - q)
    let bits := (q - floatMinScale fmt).toNat * 2 ^ fmt.fracBits + sig
    if floatInfMag fmt ≤ bits then floatInfMag fmt else bits

/-- R12 `round_FMT`: the Float nearest to `± m * 2^e`, ties to even. -/
def roundToFloat (fmt : FloatFmt) (neg : Bool) (m : Nat) (e : Int) : F64 :=
  floatOf fmt neg (roundToFloatMag fmt m e)

/-- R143: `toFloat(v, frac) = round_FMT(real(v) * 2^-frac)`. Zero gives +0.0. -/
def toFloat (fmt : FloatFmt) (v : Int) (frac : Nat) : F64 :=
  roundToFloat fmt (decide (v < 0)) v.natAbs (-(frac : Int))

/-- R144, before the range test: the finite `x * 2^frac` rounded to an integer. -/
def scaledInt (fmt : FloatFmt) (mode : FxRound) (x : F64) (frac : Nat) : Int :=
  let i := rintMag mode (floatMant fmt x) (floatScale fmt x + frac)
  if floatSign fmt x then -(i : Int) else i

/-- R141: the range of a signed integer of `W` bits. -/
def inSignedRange (W : Nat) (i : Int) : Bool := -(2 ^ (W - 1) : Int) ≤ i && i ≤ 2 ^ (W - 1) - 1

/-- R144, R146: `toFixed(x, frac, W)`; `none` where it raises ArithmeticOverflow: a NaN, an infinity, or a
rounded integer outside the W-bit signed range. No saturation, no wrap. -/
def toFixed (fmt : FloatFmt) (mode : FxRound) (x : F64) (frac W : Nat) : Option Int :=
  if floatIsFinite fmt x then
    let i := scaledInt fmt mode x frac
    if inSignedRange W i then some i else none
  else none

/-! ## The product (R205) -/

/-- R205 `fmul`: the product, rounded to nearest, ties to even. `0 * infinity` and a product with a NaN are a
NaN, whose sign and payload are free (U13, log 13). -/
def floatMul (fmt : FloatFmt) (x y : F64) : F64 :=
  let neg := floatSign fmt x != floatSign fmt y
  if floatIsNan fmt x || floatIsNan fmt y then floatNan fmt (Config.freeNan x y)
  else if floatIsInf fmt x || floatIsInf fmt y then
    if (floatIsFinite fmt x && floatMant fmt x == 0) || (floatIsFinite fmt y && floatMant fmt y == 0) then
      floatNan fmt (Config.freeNan x y)
    else floatInf fmt neg
  else roundToFloat fmt neg (floatMant fmt x * floatMant fmt y) (floatScale fmt x + floatScale fmt y)

/-! ## The scale factor (R206) -/

/-- R206: a level in twentieths, in lowest terms: for a magnitude `m * 2^e`, the fraction `m * 2^e / 20`. -/
def twentieths (m : Nat) (e : Int) : Nat × Nat :=
  let n := m * 2 ^ e.toNat
  let d := 20 * 2 ^ (-e).toNat
  (n / Nat.gcd n d, d / Nat.gcd n d)

/-- The order of `m * 2^e` and `10^(n/d)` (`10^(-n/d)` when `neg`), for `d` not 0: both are raised to the power
`d`, and negative powers change sides, so that the comparison is between integers. -/
def comparePow10 (neg : Bool) (n d m : Nat) (e : Int) : Ordering :=
  compare (m ^ d * 2 ^ (e.toNat * d) * (if neg then 10 ^ n else 1))
    (2 ^ ((-e).toNat * d) * (if neg then 1 else 10 ^ n))

/-- The greatest number below `2^k` more than `acc` that satisfies `below`, bit by bit from the top, where
`below` holds up to some number and fails beyond it. -/
def greatestBelow (below : Nat → Bool) : Nat → Nat → Nat
  | 0, acc => acc
  | k + 1, acc => greatestBelow below k (if below (acc + 2 ^ k) then acc + 2 ^ k else acc)

/-- The exponent and fraction bits of the greatest finite Float that is at most `10^(n/d)` (`10^(-n/d)` when
`neg`). -/
def floorPow10Mag (fmt : FloatFmt) (neg : Bool) (n d : Nat) : Nat :=
  greatestBelow (fun b => decide (b < floatInfMag fmt) &&
      comparePow10 neg n d (floatMant fmt (floatOf fmt false b)) (floatScale fmt (floatOf fmt false b)) != .gt)
    (fmt.expBits + fmt.fracBits) 0

/-- R206: the exponent and fraction bits of `round_FMT(10^(n/d))` (`10^(-n/d)` when `neg`): the Float below, or
the next one if the value lies past the middle between the two, or in the middle and the one below is odd. Past
the greatest Float the next one is the infinity. -/
def roundPow10Mag (fmt : FloatFmt) (neg : Bool) (n d : Nat) : Nat :=
  let b := floorPow10Mag fmt neg n d
  let x := floatOf fmt false b
  match comparePow10 neg n d (2 * floatMant fmt x + 1) (floatScale fmt x - 1) with
  | .lt => b + 1
  | .eq => if b % 2 = 1 then b + 1 else b
  | .gt => b

/-- R206, R8 refScale, the value taken: `round_FMT(10^(x/20))` for a finite level, a NaN for a NaN (its sign and
payload free, U13), +infinity for +infinity, +0.0 for -infinity (log 12). -/
def refScaleTaken (fmt : FloatFmt) (x : F64) : F64 :=
  if floatIsNan fmt x then floatNan fmt (Config.freeNan x x)
  else if floatIsInf fmt x then if floatSign fmt x then 0 else floatInf fmt false
  else
    let y := twentieths (floatMant fmt x) (floatScale fmt x)
    floatOf fmt false (roundPow10Mag fmt (floatSign fmt x) y.1 y.2)

end Sys2Proof.Machine
end

