-- ==== Sys2Proof/Machine/Params.lean ====
section
/-! DEFINITION. The values of the configuration: the constants the document fixes (R7), the tables of R210 and
R242, and the instance of PHPC that the machine runs, with the values the spec takes (R8). -/

namespace Sys2Proof

open Sys2Proof.Machine

/-! ## Constants the document fixes (R7) -/

/-- R7 PROLOGUE_WORDS. -/
def Config.prologueWords : Nat := 5
/-- R7 GEO_WORDS. -/
def Config.geoWords : Nat := 11
/-- R7 TRAILER_COUNT_EN_BIT. -/
def Config.trailerCountEnBit : Nat := 7
/-- R7 FRAC_TEMPERATURE. -/
def Config.fracTemperature : Nat := 6
/-- R7 FRAC_GAIN. -/
def Config.fracGain : Nat := 7
/-- R7 FRAC_REFLEVEL. -/
def Config.fracRefLevel : Nat := 7
/-- R7 FRAC_FREQ. -/
def Config.fracFreq : Nat := 20
/-- R7 FRAC_LATLON. -/
def Config.fracLatLon : Nat := 22
/-- R7 FRAC_ALTITUDE. -/
def Config.fracAltitude : Nat := 6
/-- R7 FRAC_SPEED. -/
def Config.fracSpeed : Nat := 16
/-- R7 FRAC_TRACK. -/
def Config.fracTrack : Nat := 22
/-- R7 FRAC_MAGVAR. -/
def Config.fracMagVar : Nat := 22
/-- R7 SAMPLE_SCALE is 2 to this power. -/
def Config.sampleFrac : Nat := 15
/-- R86, R220: the largest packet size, which the 16-bit size field holds. -/
def Config.maxPacketWords : Nat := 65535
/-- R50: the number of entries of RAWIQ and of SCALED. -/
def Config.sampleStoreSize : Nat := 131072
/-! ### FIELD_TABLE, the default rows (R242) -/

/-- R242 row 0. -/
def Config.rowChangeIndicator : FieldRow := ⟨.changeIndicator, 31, .none⟩
/-- R242 row 1. -/
def Config.rowReferencePointId : FieldRow := ⟨.referencePointId, 30, .raw1⟩
/-- R242 row 2. -/
def Config.rowBandwidth : FieldRow := ⟨.bandwidth, 29, .freq⟩
/-- R242 row 3. -/
def Config.rowIfRefFreq : FieldRow := ⟨.ifRefFreq, 28, .freq⟩
/-- R242 row 4. -/
def Config.rowRfRefFreq : FieldRow := ⟨.rfRefFreq, 27, .freq⟩
/-- R242 row 5. -/
def Config.rowRfRefFreqOffset : FieldRow := ⟨.rfRefFreqOffset, 26, .freq⟩
/-- R242 row 6. -/
def Config.rowIfBandOffset : FieldRow := ⟨.ifBandOffset, 25, .freq⟩
/-- R242 row 7. -/
def Config.rowReferenceLevel : FieldRow := ⟨.referenceLevel, 24, .fx16 Config.fracRefLevel⟩
/-- R242 row 8. -/
def Config.rowGain : FieldRow := ⟨.gain, 23, .fx16 Config.fracGain⟩
/-- R242 row 9. -/
def Config.rowOverRangeCount : FieldRow := ⟨.overRangeCount, 22, .raw1⟩
/-- R242 row 10. -/
def Config.rowSampleRate : FieldRow := ⟨.sampleRate, 21, .freq⟩
/-- R242 row 11. -/
def Config.rowTimestampAdjustment : FieldRow := ⟨.timestampAdjustment, 20, .raw2⟩
/-- R242 row 12. -/
def Config.rowTimestampCalTime : FieldRow := ⟨.timestampCalTime, 19, .raw1⟩
/-- R242 row 13. -/
def Config.rowTemperature : FieldRow := ⟨.temperature, 18, .fx16 Config.fracTemperature⟩
/-- R242 row 14. -/
def Config.rowDeviceId : FieldRow := ⟨.deviceId, 17, .devid⟩
/-- R242 row 15. -/
def Config.rowStateEventIndicators : FieldRow := ⟨.stateEventIndicators, 16, .raw1⟩
/-- R242 row 16. -/
def Config.rowDataPayloadFormat : FieldRow := ⟨.dataPayloadFormat, 15, .raw2⟩
/-- R242 row 17. -/
def Config.rowGeolocation : FieldRow := ⟨.geolocation, 14, .geo⟩

/-- R242: FIELD_TABLE, 18 rows in serialization order. -/
def Config.defaultFieldTable : List FieldRow :=
  [Config.rowChangeIndicator, Config.rowReferencePointId, Config.rowBandwidth, Config.rowIfRefFreq,
   Config.rowRfRefFreq, Config.rowRfRefFreqOffset, Config.rowIfBandOffset, Config.rowReferenceLevel,
   Config.rowGain, Config.rowOverRangeCount, Config.rowSampleRate, Config.rowTimestampAdjustment,
   Config.rowTimestampCalTime, Config.rowTemperature, Config.rowDeviceId,
   Config.rowStateEventIndicators, Config.rowDataPayloadFormat, Config.rowGeolocation]

/-- R210: TRAILER_PAIRS, five rows; each indicator bit is 12 below its enable bit. -/
def Config.defaultTrailerPairs : List TrailerPair :=
  [⟨.calibratedTime, 31, 19⟩, ⟨.validData, 30, 18⟩, ⟨.referenceLock, 29, 17⟩, ⟨.overRange, 25, 13⟩,
   ⟨.sampleLoss, 24, 12⟩]

/-- R81: OPCODES, the default map. -/
def Config.defaultOpcodes : Op → BitVec 4
  | .normalize => 0x1
  | .peek => 0x2
  | .decodeData => 0x3
  | .decodeContext => 0x4
  | .encodeData => 0x5
  | .encodeContext => 0x6
  | .toFixed => 0x7
  | .toFloat => 0x8
  | .packHeader => 0x9
  | .packTrailer => 0xA
  | .packIndicator => 0xB

/-- R8: the values the spec takes: the instance the machine runs. -/
def Config.phpc : Config where
  hostBigEndian     := false
  typeLsb           := 28
  hdrFlagsLsb       := 20
  countLsb          := 16
  sizeLsb           := 0
  typeData          := 0x1
  typeContext       := 0x4
  sampleIHigh       := true
  trailerPairs      := Config.defaultTrailerPairs
  trailerCountLsb   := 0
  fieldTable        := Config.defaultFieldTable
  geoSkipWhenAbsent := false
  fxRound           := .nearestEven
  floatFmt          := .binary64
  fracHeading       := 22
  refScale          := refScaleTaken .binary64
  bufWords          := 65536
  opcodes           := Config.defaultOpcodes

/-- R250 to R256, R7 FREQ_WORDS, DEVID_WORDS, GEO_WORDS: how many words a row's field takes. -/
def FieldDec.width : FieldDec → Nat
  | .none => 0
  | .raw1 => 1
  | .raw2 => 2
  | .freq => 2
  | .fx16 _ => 1
  | .devid => 2
  | .geo => Config.geoWords

/-- R250 to R256: whether a value is of the type that a row decodes to and encodes from. -/
def FieldDec.fits : FieldDec → FieldValue → Bool
  | .none, .flag => true
  | .raw1, .word _ => true
  | .raw2, .pair _ _ => true
  | .devid, .pair _ _ => true
  | .freq, .float _ => true
  | .fx16 _, .float _ => true
  | .geo, .geo _ => true
  | _, _ => false

/-- R33, R241: the member of a row. What is not of the row's type is no value of the member (log 18). -/
def Machine.ContextRec.member (x : ContextRec) (r : FieldRow) : Option FieldValue :=
  (x.get r.name).filter r.dec.fits

/-- R33: the presence flag of a row's member: whether it is `some`. -/
def Machine.ContextRec.present (x : ContextRec) (r : FieldRow) : Bool := (x.member r).isSome

/-- R81: the operations. -/
def Config.operations : List Op :=
  [.normalize, .peek, .decodeData, .decodeContext, .encodeData, .encodeContext, .toFixed, .toFloat,
   .packHeader, .packTrailer, .packIndicator]

/-- R244: `tableMask`, the OR of 2^bit over all rows. -/
def Config.tableMask (c : Config) : Word :=
  c.fieldTable.foldl (fun m r => m ||| BitVec.twoPow 32 r.bit) 0

end Sys2Proof
end

