-- ==== Sys2Proof/Machine/Operands.lean ====
section
/-! DEFINITION. Every form in which an operand is read or built: the byte order normalizer, the header word,
the prologue, the I/Q pair, the trailer word, the fixed-point fields, the rows of the field table and the
indicator word. All are functions of words and records; `Ops.lean` applies them to the state. -/

namespace Sys2Proof.Machine

/-! ## Byte order (R10, R51, R121) -/

/-- R10 `bswap32`. -/
def bswap32 (w : Word) : Word :=
  w.extractLsb' 0 8 ++ w.extractLsb' 8 8 ++ w.extractLsb' 16 8 ++ w.extractLsb' 24 8

/-- R121: raw to normalized on the way in, normalized to raw on the way out. -/
def normWord (c : Config) (w : Word) : Word := if c.hostBigEndian then w else bswap32 w

/-- R51: the value of a word whose wire bytes arrive in the order `b0 b1 b2 b3`. -/
def wireValue (b0 b1 b2 b3 : BitVec 8) : Word := b0 ++ b1 ++ b2 ++ b3

/-- R51: the raw word the transport hands over for these wire bytes: a host-native read of them. -/
def rawOfWire (c : Config) (b0 b1 b2 b3 : BitVec 8) : Word :=
  if c.hostBigEndian then b0 ++ b1 ++ b2 ++ b3 else b3 ++ b2 ++ b1 ++ b0

/-! ## The header word and the prologue (R83, R84, R87, R171, R173, R180) -/

/-- R83: the type code of a normalized header word. -/
def headerType (c : Config) (w : Word) : BitVec 4 := w.extractLsb' c.typeLsb 4

/-- R83, R85: the opaque header bits. -/
def headerFlags (c : Config) (w : Word) : BitVec 8 := w.extractLsb' c.hdrFlagsLsb 8

/-- R83: the modulo-16 packet count. -/
def headerCount (c : Config) (w : Word) : BitVec 4 := w.extractLsb' c.countLsb 4

/-- R83: the packet size H. -/
def headerSize (c : Config) (w : Word) : BitVec 16 := w.extractLsb' c.sizeLsb 16

/-- R180 `packHeader`: each field at its position. -/
def packHeaderWord (c : Config) (type : BitVec 4) (hdrFlags : BitVec 8) (count : BitVec 4)
    (size : BitVec 16) : Word :=
  type.setWidth 32 <<< c.typeLsb ||| hdrFlags.setWidth 32 <<< c.hdrFlagsLsb |||
    count.setWidth 32 <<< c.countLsb ||| size.setWidth 32 <<< c.sizeLsb

/-- R84: classification by type code. -/
def classifyCode (c : Config) (code : BitVec 4) : PacketType :=
  if code = c.typeData then .data else if code = c.typeContext then .context else .invalid

/-- R84 `classify(w)`. -/
def classify (c : Config) (w : Word) : PacketType := classifyCode c (headerType c w)

/-- R173 `extractPrologue`, on the five normalized words; `w3` is the high half of the fractional time. -/
def extractPrologue (c : Config) (w0 w1 w2 w3 w4 : Word) : Prologue where
  type     := headerType c w0
  hdrFlags := headerFlags c w0
  count    := headerCount c w0
  size     := headerSize c w0
  streamId := w1
  tsInt    := w2
  tsFrac   := w3 ++ w4

/-- R95: the high word of a 64-bit quantity, which comes first. -/
def highWord (q : BitVec 64) : Word := q.extractLsb' 32 32

/-- R95: the low word of a 64-bit quantity. -/
def lowWord (q : BitVec 64) : Word := q.extractLsb' 0 32

/-- R220, R262: the five prologue words an encode operation emits; type and size are the encoder's own. -/
def prologueWords (c : Config) (type : BitVec 4) (size : BitVec 16) (p : Prologue) : List Word :=
  [packHeaderWord c type p.hdrFlags p.count size, p.streamId, p.tsInt, highWord p.tsFrac,
   lowWord p.tsFrac]

/-! ## Payload words (R89, R202, R220) -/

/-- R202 `splitIQ`: the I sample and the Q sample of a normalized payload word. -/
def splitIQ (c : Config) (w : Word) : Sample × Sample :=
  if c.sampleIHigh then (w.extractLsb' 16 16, w.extractLsb' 0 16)
  else (w.extractLsb' 0 16, w.extractLsb' 16 16)

/-- R220 `joinIQ`. -/
def joinIQ (c : Config) (i q : Sample) : Word := if c.sampleIHigh then i ++ q else q ++ i

/-- R205: `scaleSample(raw, g) = fmul(real(raw) / 2^15, g)`. In binary64 the division is exact. DESIGN CHOICE, unsafe
(log 23): in a FLOAT_FMT too narrow to hold `raw / 2^15`, of which R205 does not speak, the quotient is first rounded
to the format and then the product is, where D13 speaks of one rounded product. -/
def scaleSample (fmt : FloatFmt) (raw : Sample) (g : F64) : F64 :=
  floatMul fmt (toFloat fmt raw.toInt Config.sampleFrac) g

/-- R201: the samples of a payload, in wire order I0, Q0, I1, Q1, … -/
def splitPayload (c : Config) : List Word → List Sample
  | [] => []
  | w :: ws => (splitIQ c w).1 :: (splitIQ c w).2 :: splitPayload c ws

/-! ## The trailer word (R90, R211, R215) -/

/-- R211: one enable/indicator pair of a trailer word. -/
def trailerPairOf (t : Word) (p : TrailerPair) : Option Bool :=
  if t.getLsbD p.enable then some (t.getLsbD p.indicator) else none

/-- R211: the gated count of a trailer word. -/
def trailerCountOf (c : Config) (t : Word) : Option (BitVec 6) :=
  if t.getLsbD Config.trailerCountEnBit then some (t.extractLsb' c.trailerCountLsb 6) else none

/-- R211: the loop over TRAILER_PAIRS. -/
def decodePairs (t : Word) : List TrailerPair → Trailer → Trailer
  | [], r => r
  | p :: ps, r => decodePairs t ps (r.setPair (trailerPairOf t p) p.name)

/-- R211 `decodeTrailer`. -/
def decodeTrailer (c : Config) (t : Word) : Trailer :=
  { decodePairs t c.trailerPairs Trailer.empty with ctxCount := trailerCountOf c t }

/-- R215: the bits that a pair contributes: none of its own when it is absent. -/
def pairBits (p : TrailerPair) : Option Bool → Word
  | none => 0
  | some b => BitVec.twoPow 32 p.enable ||| (if b then BitVec.twoPow 32 p.indicator else 0)

/-- R215: the bits that the count contributes. -/
def countBits (c : Config) : Option (BitVec 6) → Word
  | none => 0
  | some n => BitVec.twoPow 32 Config.trailerCountEnBit ||| n.setWidth 32 <<< c.trailerCountLsb

/-- R215: the loop over TRAILER_PAIRS. -/
def packPairs (r : Trailer) : List TrailerPair → Word
  | [] => 0
  | p :: ps => pairBits p (r.pair p.name) ||| packPairs r ps

/-- R215 `packTrailer`. -/
def packTrailerWord (c : Config) (r : Trailer) : Word :=
  packPairs r c.trailerPairs ||| countBits c r.ctxCount

/-! ## Fixed-point fields (R142, R149) -/

/-- R80: the integer width a `width` code stands for; 3 is reserved (R82). -/
def widthBits (width : BitVec 2) : Option Nat :=
  if width = 0 then some 16 else if width = 1 then some 32 else if width = 2 then some 64 else none

/-- R142: `sint_W(fxint[W-1:0])`; the bits above W-1 are ignored. -/
def fixedOperand (W : Nat) (fxint : BitVec 64) : Int := (fxint.setWidth W).toInt

/-- R149 `decFX16`: the value is in bits [15:0]; the upper half is ignored (R96). -/
def decFx16 (c : Config) (w : Word) (f : Nat) : F64 := toFloat c.floatFmt (w.extractLsb' 0 16).toInt f

/-- R149 `encFX16`: the upper half is 0 (R96). `none` where it raises ArithmeticOverflow. -/
def encFx16 (c : Config) (x : F64) (f : Nat) : Option Word :=
  (toFixed c.floatFmt c.fxRound x f 16).map fun i => (BitVec.ofInt 16 i).setWidth 32

/-- R149 `decFREQ`. -/
def decFreq (c : Config) (w0 w1 : Word) : F64 := toFloat c.floatFmt (w0 ++ w1).toInt Config.fracFreq

/-- R149 `encFREQ`. DEDUCED, unsafe (log 21): R252 says that `enc` raises for `|x|` at or beyond `2^43`; its formula,
with the range of R141 and vector V27c, encodes `-2^43` (as `-2^63`), and the formula is followed. -/
def encFreq (c : Config) (x : F64) : Option (Word × Word) :=
  (toFixed c.floatFmt c.fxRound x Config.fracFreq 64).map fun i =>
    (highWord (BitVec.ofInt 64 i), lowWord (BitVec.ofInt 64 i))

/-- R149 `decFX32`. -/
def decFx32 (c : Config) (w : Word) (f : Nat) : F64 := toFloat c.floatFmt w.toInt f

/-- R149 `encFX32`. -/
def encFx32 (c : Config) (x : F64) (f : Nat) : Option Word :=
  (toFixed c.floatFmt c.fxRound x f 32).map (BitVec.ofInt 32)

/-! ## The geolocation block (R98, R256) -/

/-- R256 `dec(g)`; `g k` is the k-th word of the block. -/
def decGeo (c : Config) (g : Nat → Word) : Geo where
  g0                := g 0
  tsInt             := g 1
  tsFrac            := g 2 ++ g 3
  latitude          := decFx32 c (g 4) Config.fracLatLon
  longitude         := decFx32 c (g 5) Config.fracLatLon
  altitude          := decFx32 c (g 6) Config.fracAltitude
  speedOverGround   := decFx32 c (g 7) Config.fracSpeed
  headingAngle      := decFx32 c (g 8) c.fracHeading
  trackAngle        := decFx32 c (g 9) Config.fracTrack
  magneticVariation := decFx32 c (g 10) Config.fracMagVar

/-- R256: the seven conversions of `enc(G)`, in the order written: the Float and its fractional bits. -/
def geoQuantities (c : Config) (G : Geo) : List (F64 × Nat) :=
  [(G.latitude, Config.fracLatLon), (G.longitude, Config.fracLatLon), (G.altitude, Config.fracAltitude),
   (G.speedOverGround, Config.fracSpeed), (G.headingAngle, c.fracHeading),
   (G.trackAngle, Config.fracTrack), (G.magneticVariation, Config.fracMagVar)]

/-- R256: the conversions in order; an error is the number `sub` of the first that overflows. -/
def encQuantities (c : Config) : Nat → List (F64 × Nat) → Except Nat (List Word)
  | _, [] => .ok []
  | sub, (x, f) :: rest =>
    match encFx32 c x f with
    | none => .error sub
    | some w =>
      match encQuantities c (sub + 1) rest with
      | .error e => .error e
      | .ok ws => .ok (w :: ws)

/-- R256 `enc(G)`. -/
def encGeo (c : Config) (G : Geo) : Except Nat (List Word) :=
  match encQuantities c 0 (geoQuantities c G) with
  | .error sub => .error sub
  | .ok ws => .ok (G.g0 :: G.tsInt :: highWord G.tsFrac :: lowWord G.tsFrac :: ws)

/-! ## The rows of the field table (R244, R250 to R256, R260, R262) -/

/-- R250 to R256: `dec` of a row; `w k` is the k-th word of the field. -/
def decodeValue (c : Config) (dec : FieldDec) (w : Nat → Word) : FieldValue :=
  match dec with
  | .none => .flag
  | .raw1 => .word (w 0)
  | .raw2 => .pair (w 0) (w 1)
  | .freq => .float (decFreq c (w 0) (w 1))
  | .fx16 frac => .float (decFx16 c (w 0) frac)
  | .devid => .pair (w 0) (w 1)
  | .geo => .geo (decGeo c w)

/-- R262: the words that a conversion gives, or the error with `sub` = 0. -/
def encOne : Option (List Word) → Except Nat (List Word)
  | none => .error 0
  | some ws => .ok ws

/-- R250 to R256: `enc` of a row, on a value of its type; an error is the `sub` of R304. A value of another type
is no value of the row's member (`ContextRec.member`). -/
def encodeValue (c : Config) : FieldDec → FieldValue → Except Nat (List Word)
  | .raw1, .word w => .ok [w]
  | .raw2, .pair w0 w1 => .ok [w0, w1]
  | .devid, .pair w0 w1 => .ok [w0, w1]
  | .freq, .float x => encOne ((encFreq c x).map fun p => [p.1, p.2])
  | .fx16 frac, .float x => encOne ((encFx16 c x frac).map fun w => [w])
  | .geo, .geo G => encGeo c G
  | _, _ => .ok []

/-- R245: the words that a row of the walk passes over when its field is absent. -/
def skipWords (c : Config) (r : FieldRow) : Nat :=
  if r.name = .geolocation ∧ c.geoSkipWhenAbsent then Config.geoWords else 0

/-- R262: what a row adds to the body of an encoded context packet: `enc(v)` when its member is present,
nothing (or the skipped slot of R245) when it is absent. -/
def encodeRow (c : Config) (r : FieldRow) (x : ContextRec) : Except Nat (List Word) :=
  match x.member r with
  | none => .ok (List.replicate (skipWords c r) 0)
  | some v => encodeValue c r.dec v

/-- R260 `packIndicator`. -/
def packIndicatorRows (x : ContextRec) : List FieldRow → Word
  | [] => 0
  | r :: rs => (if x.present r then BitVec.twoPow 32 r.bit else 0) ||| packIndicatorRows x rs

/-- R260: PACK_INDICATOR's word. -/
def packIndicatorWord (c : Config) (x : ContextRec) : Word := packIndicatorRows x c.fieldTable

end Sys2Proof.Machine
end

