-- ==== Sys2Proof/Syntax.lean ====
section
/-! DEFINITION. The instructions: one constructor per row of `spec/opcode_table.json`; the form in which one
is presented (a command tuple or a packet word); and what a decoder can reject. -/

namespace Sys2Proof

/-- The rows of the opcode table, in its order. Formats: CMD (the eleven commands of R81 and the five
reserved selectors of R82), HDR (R83, R84), IQ (R89), TRL (R90, R210), CIF (R93, R242). The operands of a
command are the members of the tuple of R80 that its rule reads; the operands of a packet word's row are
the fields of the word that belong to the row. -/
inductive Instr where
  | normalize
  | peek
  | decodeData (S : BitVec 16) (ref : F64)
  | decodeContext (S : BitVec 16)
  | encodeData
  | encodeContext
  | toFixed (fxval : F64) (frac : BitVec 6) (width : BitVec 2)
  | toFloat (fxint : BitVec 64) (frac : BitVec 6) (width : BitVec 2)
  | packHeader
  | packTrailer
  | packIndicator
  | reservedOp0
  | reservedOpC
  | reservedOpD
  | reservedOpE
  | reservedOpF
  | hdrData (hdrFlags : BitVec 8) (count : BitVec 4) (size : BitVec 16)
  | hdrContext (hdrFlags : BitVec 8) (count : BitVec 4) (size : BitVec 16)
  | iq (i : Sample) (q : Sample)
  | trlCalibratedTime (indicator : Bool)
  | trlValidData (indicator : Bool)
  | trlReferenceLock (indicator : Bool)
  | trlOverRange (indicator : Bool)
  | trlSampleLoss (indicator : Bool)
  | trlCtxCount (count : BitVec 6)
  | cifChangeIndicator
  | cifReferencePointId
  | cifBandwidth
  | cifIfRefFreq
  | cifRfRefFreq
  | cifRfRefFreqOffset
  | cifIfBandOffset
  | cifReferenceLevel
  | cifGain
  | cifOverRangeCount
  | cifSampleRate
  | cifTimestampAdjustment
  | cifTimestampCalTime
  | cifTemperature
  | cifDeviceId
  | cifStateEventIndicators
  | cifDataPayloadFormat
  | cifGeolocation
deriving DecidableEq, Repr, Inhabited

/-- R80, format CMD: the tuple on the command port. -/
structure Cmd where
  op    : BitVec 4
  S     : BitVec 16
  ref   : F64
  fxval : F64
  fxint : BitVec 64
  frac  : BitVec 6
  width : BitVec 2
deriving DecidableEq, Repr, Inhabited

/-- The table's formats of one packet word. The format of a word is told by its place in the packet (R57,
R83, R89, R90, R93), never by its bits. -/
inductive WireFormat where
  | hdr | iq | trl | cif
deriving DecidableEq, Repr, Inhabited

/-- What the machine is given to run: a command tuple (R80), or one normalized packet word of a known
format (log 8). -/
inductive Fetch where
  | command (c : Cmd)
  | element (f : WireFormat) (w : Word)
deriving DecidableEq, Repr, Inhabited

/-- Why the decoder rejects what it is given. Safe: the machine stops. -/
inductive Reject where
  /-- R82: `width` = 3 in a TO_FIXED or TO_FLOAT command. -/
  | reservedWidth
  /-- R82, under another OPCODES map (R8): a selector from 0x1 to 0xB that the map gives no operation. -/
  | reservedSelector (op : BitVec 4)
  /-- A header word whose type code is neither row's (R84: INVALID, not a row of the table). -/
  | noHeaderRow
  /-- A trailer word with no enable bit of a row set. -/
  | noTrailerRow
  /-- An indicator word with no bit of a row set. -/
  | noIndicatorRow
deriving DecidableEq, Repr, Inhabited

end Sys2Proof
end

