-- ==== Sys2Proof/WellFormed.lean ====
section
/-! DEFINITION. When an instruction is well formed, and when a configuration meets the constraints the spec
puts on its tables. -/

namespace Sys2Proof

/-- R82: the width code of a TO_FIXED or TO_FLOAT command is 0, 1 or 2. -/
def widthOk (width : BitVec 2) : Bool := width != 3

/-- R80, R82: every member of a command has its field's width by type; the only encodable value that is no
operand is `width` = 3. Every operand of a packet word's row is legal (R85, R89, R211). -/
def Instr.wf : Instr → Bool
  | .toFixed _ _ width => widthOk width
  | .toFloat _ _ width => widthOk width
  | .normalize | .peek | .decodeData _ _ | .decodeContext _ | .encodeData | .encodeContext
  | .packHeader | .packTrailer | .packIndicator
  | .reservedOp0 | .reservedOpC | .reservedOpD | .reservedOpE | .reservedOpF
  | .hdrData _ _ _ | .hdrContext _ _ _ | .iq _ _
  | .trlCalibratedTime _ | .trlValidData _ | .trlReferenceLock _ | .trlOverRange _
  | .trlSampleLoss _ | .trlCtxCount _
  | .cifChangeIndicator | .cifReferencePointId | .cifBandwidth | .cifIfRefFreq | .cifRfRefFreq
  | .cifRfRefFreqOffset | .cifIfBandOffset | .cifReferenceLevel | .cifGain | .cifOverRangeCount
  | .cifSampleRate | .cifTimestampAdjustment | .cifTimestampCalTime | .cifTemperature
  | .cifDeviceId | .cifStateEventIndicators | .cifDataPayloadFormat | .cifGeolocation => true

/-- R210: any five pairs of distinct names whose ten bits are distinct bits of the word and avoid bits 7 to
0. -/
def trailerPairsOk (ps : List TrailerPair) : Bool :=
  let bits := ps.map (·.enable) ++ ps.map (·.indicator)
  ps.length == 5 && decide (ps.map (·.name)).Nodup && decide bits.Nodup &&
    bits.all (fun b => 8 ≤ b && b < 32)

/-- R241: the rows' bits are distinct bits of the word, and at most one row is named geolocation. -/
def fieldTableOk (rows : List FieldRow) : Bool :=
  decide (rows.map (·.bit)).Nodup && rows.all (·.bit < 32) &&
    (rows.filter (·.name = .geolocation)).length ≤ 1

/-- R8 FLOAT_FMT: a format that fits the 64 bits of a Float (R345), with a finite value other than 0. -/
def floatFmtOk (fmt : FloatFmt) : Bool :=
  2 ≤ fmt.expBits && 1 ≤ fmt.fracBits && 1 + fmt.expBits + fmt.fracBits ≤ 64

/-- R8 OPCODES: no two operations have one selector. -/
def opcodesOk (opcodes : Op → BitVec 4) : Bool := decide (Config.operations.map opcodes).Nodup

/-- R8, R83: the four header fields (4, 8, 4 and 16 bits) lie in the word without overlap. -/
def headerPositionsOk (c : Config) : Bool :=
  let bits := List.range' c.typeLsb 4 ++ List.range' c.hdrFlagsLsb 8 ++ List.range' c.countLsb 4 ++
    List.range' c.sizeLsb 16
  decide bits.Nodup && bits.all (· < 32)

/-- R8, R84, R210, R241: the constraints on an instance's configuration. A buffer holds the largest packet and
its indices have 16 bits (R50). -/
def Config.wf (c : Config) : Bool :=
  headerPositionsOk c && c.typeData != c.typeContext && trailerPairsOk c.trailerPairs &&
    c.trailerCountLsb + 6 ≤ 7 && fieldTableOk c.fieldTable && floatFmtOk c.floatFmt &&
    opcodesOk c.opcodes && 65535 ≤ c.bufWords && c.bufWords ≤ 65536

end Sys2Proof
end

