-- ==== Sys2Proof/Decode.lean ====
section
/-! DEFINITION. The decoder, total on every command tuple and every packet word, and the encoder, written
from the same tables (R80 to R93, R242). The tuple's members are presented side by side (R80), so nothing
is packed into a command word; a packet word is normalized. -/

namespace Sys2Proof

open Sys2Proof.Machine

/-- R81: the operation whose selector a code is, under the instance's OPCODES. -/
def operationOf (c : Config) (code : BitVec 4) : Option Op :=
  Config.operations.find? fun op => c.opcodes op = code

/-- R82: a selector that is no operation's. -/
def decodeReserved (code : BitVec 4) : Except Reject Instr :=
  match code.toNat with
  | 0x0 => .ok .reservedOp0
  | 0xC => .ok .reservedOpC
  | 0xD => .ok .reservedOpD
  | 0xE => .ok .reservedOpE
  | 0xF => .ok .reservedOpF
  | _ => .error (.reservedSelector code)

/-- R81, R82: a command tuple. A member that the operation does not read has no effect (R80). -/
def decodeCommand (c : Config) (m : Cmd) : Except Reject Instr :=
  match operationOf c m.op with
  | some .normalize => .ok .normalize
  | some .peek => .ok .peek
  | some .decodeData => .ok (.decodeData m.S m.ref)
  | some .decodeContext => .ok (.decodeContext m.S)
  | some .encodeData => .ok .encodeData
  | some .encodeContext => .ok .encodeContext
  | some .toFixed => if widthOk m.width then .ok (.toFixed m.fxval m.frac m.width) else .error .reservedWidth
  | some .toFloat => if widthOk m.width then .ok (.toFloat m.fxint m.frac m.width) else .error .reservedWidth
  | some .packHeader => .ok .packHeader
  | some .packTrailer => .ok .packTrailer
  | some .packIndicator => .ok .packIndicator
  | none => decodeReserved m.op

/-- R83, R84: a header word, by its type code. -/
def decodeHeader (c : Config) (w : Word) : Except Reject Instr :=
  if headerType c w = c.typeData then .ok (.hdrData (headerFlags c w) (headerCount c w) (headerSize c w))
  else if headerType c w = c.typeContext then
    .ok (.hdrContext (headerFlags c w) (headerCount c w) (headerSize c w))
  else .error .noHeaderRow

/-- R89: a payload word. -/
def decodeIq (c : Config) (w : Word) : Except Reject Instr := .ok (.iq (splitIQ c w).1 (splitIQ c w).2)

/-- R210: the instruction of a trailer pair. -/
def instrOfPair : TrailerName → Bool → Instr
  | .calibratedTime => .trlCalibratedTime
  | .validData => .trlValidData
  | .referenceLock => .trlReferenceLock
  | .overRange => .trlOverRange
  | .sampleLoss => .trlSampleLoss

/-- R90: the first pair of a list whose enable bit the word has; else the count, if bit 7 is set. -/
def firstPair (c : Config) (w : Word) : List TrailerPair → Except Reject Instr
  | [] =>
    if w.getLsbD Config.trailerCountEnBit then .ok (.trlCtxCount (w.extractLsb' c.trailerCountLsb 6))
    else .error .noTrailerRow
  | p :: ps => if w.getLsbD p.enable then .ok (instrOfPair p.name (w.getLsbD p.indicator)) else firstPair c w ps

/-- R90: the first row of the TRL format whose enable bit the word has (log 9). -/
def decodeTrailerElement (c : Config) (w : Word) : Except Reject Instr := firstPair c w c.trailerPairs

/-- R93, R242: the instruction of a row of the field table. The opcode table has none for a member that R31 does
not name. -/
def instrOfField : FieldName → Option Instr
  | .changeIndicator => some .cifChangeIndicator
  | .referencePointId => some .cifReferencePointId
  | .bandwidth => some .cifBandwidth
  | .ifRefFreq => some .cifIfRefFreq
  | .rfRefFreq => some .cifRfRefFreq
  | .rfRefFreqOffset => some .cifRfRefFreqOffset
  | .ifBandOffset => some .cifIfBandOffset
  | .referenceLevel => some .cifReferenceLevel
  | .gain => some .cifGain
  | .overRangeCount => some .cifOverRangeCount
  | .sampleRate => some .cifSampleRate
  | .timestampAdjustment => some .cifTimestampAdjustment
  | .timestampCalTime => some .cifTimestampCalTime
  | .temperature => some .cifTemperature
  | .deviceId => some .cifDeviceId
  | .stateEventIndicators => some .cifStateEventIndicators
  | .dataPayloadFormat => some .cifDataPayloadFormat
  | .geolocation => some .cifGeolocation
  | .other _ => none

/-- The first row of a list that has an instruction and whose bit the word has. -/
def firstField (w : Word) : List FieldRow → Except Reject Instr
  | [] => .error .noIndicatorRow
  | r :: rows =>
    match instrOfField r.name with
    | some i => if w.getLsbD r.bit then .ok i else firstField w rows
    | none => firstField w rows

/-- R93: the first row of the field table whose bit the word has (log 9). -/
def decodeIndicatorElement (c : Config) (w : Word) : Except Reject Instr := firstField w c.fieldTable

/-- The decoder of an instance: total, rejecting by name. -/
def decodeWith (c : Config) : Fetch → Except Reject Instr
  | .command m => decodeCommand c m
  | .element .hdr w => decodeHeader c w
  | .element .iq w => decodeIq c w
  | .element .trl w => decodeTrailerElement c w
  | .element .cif w => decodeIndicatorElement c w

/-- The decoder of the instance that the machine runs. -/
def decode (f : Fetch) : Except Reject Instr := decodeWith Config.phpc f

/-- A command tuple whose members other than the selector are 0. -/
def plainCommand (op : BitVec 4) : Cmd := ⟨op, 0, 0, 0, 0, 0, 0⟩

/-- R80, R81: the tuple of an operation that reads no other member. -/
def encodeOperation (c : Config) (op : Op) : Cmd := plainCommand (c.opcodes op)

/-- R90: the trailer word with one pair. -/
def encodePair (c : Config) (name : TrailerName) (b : Bool) : Fetch :=
  .element .trl (((c.trailerPairs.find? (·.name = name)).map fun p => pairBits p (some b)).getD 0)

/-- R93: the indicator word with one member's bit. -/
def encodeField (c : Config) (name : FieldName) : Fetch :=
  .element .cif (((c.fieldTable.find? (·.name = name)).map fun r => BitVec.twoPow 32 r.bit).getD 0)

/-- The encoder of an instance: the tuple (R80, R81) or the normalized packet word (R83, R89, R90, R93) of an
instruction. A row that the instance's tables do not have is a word without bits. -/
def encodeWith (c : Config) : Instr → Fetch
  | .normalize => .command (encodeOperation c .normalize)
  | .peek => .command (encodeOperation c .peek)
  | .decodeData S ref => .command { encodeOperation c .decodeData with S := S, ref := ref }
  | .decodeContext S => .command { encodeOperation c .decodeContext with S := S }
  | .encodeData => .command (encodeOperation c .encodeData)
  | .encodeContext => .command (encodeOperation c .encodeContext)
  | .toFixed fxval frac width =>
    .command { encodeOperation c .toFixed with fxval := fxval, frac := frac, width := width }
  | .toFloat fxint frac width =>
    .command { encodeOperation c .toFloat with fxint := fxint, frac := frac, width := width }
  | .packHeader => .command (encodeOperation c .packHeader)
  | .packTrailer => .command (encodeOperation c .packTrailer)
  | .packIndicator => .command (encodeOperation c .packIndicator)
  | .reservedOp0 => .command (plainCommand 0x0)
  | .reservedOpC => .command (plainCommand 0xC)
  | .reservedOpD => .command (plainCommand 0xD)
  | .reservedOpE => .command (plainCommand 0xE)
  | .reservedOpF => .command (plainCommand 0xF)
  | .hdrData hdrFlags count size => .element .hdr (packHeaderWord c c.typeData hdrFlags count size)
  | .hdrContext hdrFlags count size => .element .hdr (packHeaderWord c c.typeContext hdrFlags count size)
  | .iq i q => .element .iq (joinIQ c i q)
  | .trlCalibratedTime b => encodePair c .calibratedTime b
  | .trlValidData b => encodePair c .validData b
  | .trlReferenceLock b => encodePair c .referenceLock b
  | .trlOverRange b => encodePair c .overRange b
  | .trlSampleLoss b => encodePair c .sampleLoss b
  | .trlCtxCount n => .element .trl (countBits c (some n))
  | .cifChangeIndicator => encodeField c .changeIndicator
  | .cifReferencePointId => encodeField c .referencePointId
  | .cifBandwidth => encodeField c .bandwidth
  | .cifIfRefFreq => encodeField c .ifRefFreq
  | .cifRfRefFreq => encodeField c .rfRefFreq
  | .cifRfRefFreqOffset => encodeField c .rfRefFreqOffset
  | .cifIfBandOffset => encodeField c .ifBandOffset
  | .cifReferenceLevel => encodeField c .referenceLevel
  | .cifGain => encodeField c .gain
  | .cifOverRangeCount => encodeField c .overRangeCount
  | .cifSampleRate => encodeField c .sampleRate
  | .cifTimestampAdjustment => encodeField c .timestampAdjustment
  | .cifTimestampCalTime => encodeField c .timestampCalTime
  | .cifTemperature => encodeField c .temperature
  | .cifDeviceId => encodeField c .deviceId
  | .cifStateEventIndicators => encodeField c .stateEventIndicators
  | .cifDataPayloadFormat => encodeField c .dataPayloadFormat
  | .cifGeolocation => encodeField c .geolocation

/-- The encoder of the instance that the machine runs. -/
def encode (i : Instr) : Fetch := encodeWith Config.phpc i

/-- The format a word of the opcode table is taken in when only its bits are given. The table gives four
formats for one 32-bit word and several of its rows have the same bits (HDR.DATA and CIF.ifRefFreq,
TRL.calibratedTime and CIF.changeIndicator, …), so the formats are tried in the table's order, and IQ, whose
row fixes no bit, last (log 9). -/
def wireFormatOf (w : Word) : WireFormat :=
  match decodeHeader Config.phpc w with
  | .ok _ => .hdr
  | .error _ =>
    match decodeTrailerElement Config.phpc w with
    | .ok _ => .trl
    | .error _ =>
      match decodeIndicatorElement Config.phpc w with
      | .ok _ => .cif
      | .error _ => .iq

/-- What a word of the opcode table is laid out as: a selector (4 bits, one byte) on the command port with
the other members 0, or a 32-bit packet word. -/
def fetchOfTableWord (nbits w : Nat) : Fetch :=
  if 1 ≤ nbits ∧ nbits ≤ 8 ∧ w < 16 then .command (plainCommand (BitVec.ofNat 4 w))
  else .element (wireFormatOf (BitVec.ofNat 32 w)) (BitVec.ofNat 32 w)

/-- The instruction the decoder reads from a word of the opcode table. -/
def decodeTableWord (nbits w : Nat) : Option Instr :=
  match decode (fetchOfTableWord nbits w) with
  | .ok i => some i
  | .error _ => none

end Sys2Proof
end

