-- ==== Sys2Proof/Machine/State.lean ====
section
/-! DEFINITION. The state of PHPC as plain data (`spec/10_state.md`), what its caller will do next, the
reasons a step can stop, and the state after reset. -/

namespace Sys2Proof.Machine

/-- R50: one address space: the entries that have been written, addresses strictly rising. An entry that is
not listed has no value of its own: it reads as a free value of the memory's epoch (U1, log 2). When the
spec makes a whole memory unspecified (R305), a new epoch begins with nothing listed. -/
structure Memory (w : Nat) where
  epoch : Nat
  cells : List (Nat × BitVec w)
deriving DecidableEq, Repr, Inhabited

/-- R347: one write of a host record write: a member of REC, an entry of RAWIQ, or NSAMP. SCALED is read
only (R345). -/
inductive HostWrite where
  | kind (v : RecKind)
  | proType (v : BitVec 4)
  | proHdrFlags (v : BitVec 8)
  | proCount (v : BitVec 4)
  | proSize (v : BitVec 16)
  | proStreamId (v : Word)
  | proTsInt (v : Word)
  | proTsFrac (v : BitVec 64)
  | trlPair (p : TrailerName) (v : Option Bool)
  | trlCtxCount (v : Option (BitVec 6))
  | ctxIndicator (v : Word)
  | ctxUnknownBits (v : Word)
  | ctxField (name : FieldName) (v : Option FieldValue)
  | rawiq (i : BitVec 17) (v : Sample)
  | nsamp (v : BitVec 18)
deriving DecidableEq, Repr, Inhabited

/-- What the caller does to PHPC between operations (R346, R347, R341). -/
inductive Action where
  /-- R346: a command accepted on the port; or one packet word taken as an element (log 8). -/
  | fetch (f : Fetch)
  /-- R347: a transport load: words of IBUF (16-bit index), then N_IN. -/
  | load (words : List (BitVec 16 × Word)) (nIn : BitVec 17)
  /-- R347: a host record write. -/
  | hostWrite (writes : List HostWrite)
  /-- R341: `rst` sampled high. -/
  | reset
deriving DecidableEq, Repr, Inhabited

/-- The state of PHPC (R20 to R33) and, last, the model's own fields. -/
structure State where
  /-- R21: IBUF, raw words. -/
  ibuf     : Memory 32
  /-- R22: N_IN, 0 to 65536. -/
  nIn      : BitVec 17
  /-- R23: OBUF, raw words. -/
  obuf     : Memory 32
  /-- R23: N_OUT, 0 to 65536. -/
  nOut     : BitVec 17
  /-- R24: CUR. -/
  cur      : BitVec 17
  /-- R25: STATUS: code [2:0], fatal bit 3, done bit 4. -/
  status   : BitVec 5
  /-- R26: ERRINFO. -/
  errinfo  : BitVec 32
  /-- R28: PTYPE. -/
  ptype    : PacketType
  /-- R28: PCODE. -/
  pcode    : BitVec 4
  /-- R28: PSIZE. -/
  psize    : BitVec 16
  /-- R29 to R31: REC. -/
  record   : Record
  /-- R32: NSAMP. -/
  nsamp    : BitVec 18
  /-- R30: RAWIQ. -/
  rawiq    : Memory 16
  /-- R30: SCALED. -/
  scaled   : Memory 64
  /-- R32: FXINT_OUT. -/
  fxintOut : BitVec 64
  /-- R32: FXVAL_OUT. -/
  fxvalOut : F64
  /-- R32: PACKOUT. -/
  packout  : Word
  /-- The MODEL's own: which free value the next unspecified result takes (log 4). -/
  free     : Nat
  /-- The MODEL's own: what the caller does next, first action first (log 5, log 6). -/
  pending  : List Action
deriving DecidableEq, Repr, Inhabited

/-- Where the machine stops because an address does not exist. -/
inductive Fault where
  /-- Raised by the IQ element when the pair's second entry would lie past the last entry of RAWIQ (R50: the
  index range is 0 to 131071). Safe: the machine stops. No command raises it. -/
  | sampleStoreEnd
deriving DecidableEq, Repr, Inhabited

/-- What the model gives no step. Each is safe: the machine stops. -/
inductive Refusal where
  /-- `exec`, on an instruction without a meaning. Safe. -/
  | notModelled (mnemonic : String)
  /-- R82, U6: a reserved command selector. Raised by the meanings of RESERVED_OP_0 and RESERVED_OP_C to F, and
  by the fetch of a selector that the instance's OPCODES give no operation. Safe. -/
  | reservedCommand (op : BitVec 4)
  /-- R82, U6: `width` = 3. Raised by TO_FIXED and TO_FLOAT, and by the fetch of such a command. Safe. -/
  | reservedWidth
  /-- U8: ENCODE_DATA with an odd NSAMP. Safe. -/
  | oddSampleCount
  /-- R347: a transport load that sets N_IN above the number of words of IBUF, or names a word that IBUF does not
  have. Raised by the load (log 16). Safe. -/
  | loadPastBuffer
  /-- A packet word that selects no row of its format (log 8). Raised by the fetch. Safe. -/
  | notATableRow (why : Reject)
  /-- R347: a host record write to a member of REC.ctx that the instance's FIELD_TABLE does not have, or of
  another type than the member's (log 17). Raised by the host write. Safe. -/
  | notAMember
deriving DecidableEq, Repr, Inhabited

/-- A record with every member 0 or absent: the members' values at reset (log 3), `kind` NONE (R39). -/
def zeroRecord : Record where
  kind := .none
  pro  := ⟨0, 0, 0, 0, 0, 0, 0⟩
  trl  := Trailer.empty
  ctx  := ContextRec.empty

/-- R39: every field at its reset value, given the epoch of the four memories and the model's own fields. -/
def State.resetWith (epoch free : Nat) (pending : List Action) : State where
  ibuf     := ⟨epoch, []⟩
  nIn      := 0
  obuf     := ⟨epoch, []⟩
  nOut     := 0
  cur      := 0
  status   := 0
  errinfo  := 0
  ptype    := .invalid
  pcode    := 0
  psize    := 0
  record   := zeroRecord
  nsamp    := 0
  rawiq    := ⟨epoch, []⟩
  scaled   := ⟨epoch, []⟩
  fxintOut := 0
  fxvalOut := 0
  packout  := 0
  free     := free
  pending  := pending

/-- R39, R341: the machine right after reset, with a caller that does nothing (log 5, log 6). -/
def State.reset : State := State.resetWith 0 1 []

end Sys2Proof.Machine
end

