-- ==== Sys2Proof/Machine/Flags.lean ====
section
/-! DEFINITION. The flag-like state (R33): the STATUS image, the four error outcomes with their code, fatal
flag and ERRINFO layout, and the entry checks. PHPC has no arithmetic condition codes. -/

namespace Sys2Proof.Machine

/-- R25: `STATUS.code`, bits [2:0]. -/
def statusCode (st : BitVec 5) : BitVec 3 := st.extractLsb' 0 3

/-- R25: `STATUS.fatal`, bit 3. -/
def statusFatal (st : BitVec 5) : Bool := st.getLsbD 3

/-- R25: `STATUS.done`, bit 4. -/
def statusDone (st : BitVec 5) : Bool := st.getLsbD 4

/-- R25: the image of STATUS. -/
def statusImage (done fatal : Bool) (code : BitVec 3) : BitVec 5 :=
  BitVec.ofBool done ++ BitVec.ofBool fatal ++ code

/-- STATUS after an OK outcome: code 0, fatal 0, done 1. -/
def statusOk : BitVec 5 := statusImage true false 0

/-- R301: the four error outcomes, with the fields of ERRINFO that R304 gives each. -/
inductive ErrorOutcome where
  /-- E_INVALID_PACKET_TYPE: the code found and the operation's own kind (1 DATA, 2 CONTEXT) -/
  | invalidPacketType (found : BitVec 4) (expected : BitVec 2)
  /-- E_TRUNCATED_FIELD: the row index (or FIXED) and the cursor -/
  | truncatedField (index : BitVec 6) (cur : BitVec 17)
  /-- E_SIZE_IMPLAUSIBLE: the operand judged, and whether it exceeds the supply -/
  | sizeImplausible (S : BitVec 16) (exceeds : Bool)
  /-- E_ARITHMETIC_OVERFLOW: the site and, in a geolocation row, which conversion -/
  | arithmeticOverflow (site : BitVec 6) (sub : BitVec 4)
deriving DecidableEq, Repr, Inhabited

/-- R304 `FIXED`. -/
def siteFixed : BitVec 6 := 0x3E
/-- R304 `SIZE`. -/
def siteSize : BitVec 6 := 0x3C
/-- R304 `DIRECT`. -/
def siteDirect : BitVec 6 := 0x3F

/-- R301: the code of an error. -/
def errorCode : ErrorOutcome → BitVec 3
  | .invalidPacketType _ _ => 1
  | .truncatedField _ _ => 2
  | .sizeImplausible _ _ => 3
  | .arithmeticOverflow _ _ => 4

/-- R301, R303: fatal is exactly E_SIZE_IMPLAUSIBLE. -/
def errorFatal : ErrorOutcome → Bool
  | .sizeImplausible _ _ => true
  | .invalidPacketType _ _ | .truncatedField _ _ | .arithmeticOverflow _ _ => false

/-- R304: ERRINFO. -/
def errorInfo : ErrorOutcome → BitVec 32
  | .invalidPacketType found expected => found.setWidth 32 ||| expected.setWidth 32 <<< 4
  | .truncatedField index cur => index.setWidth 32 ||| cur.setWidth 32 <<< 10
  | .sizeImplausible S exceeds => S.setWidth 32 ||| (BitVec.ofBool exceeds).setWidth 32 <<< 16
  | .arithmeticOverflow site sub => site.setWidth 32 ||| sub.setWidth 32 <<< 6

/-- R305: STATUS after an error. -/
def errorStatus (e : ErrorOutcome) : BitVec 5 := statusImage true (errorFatal e) (errorCode e)

/-- R305: CUR after a decode that failed. -/
def errorCursor : ErrorOutcome → BitVec 17
  | .truncatedField _ cur => cur
  | .invalidPacketType _ _ | .sizeImplausible _ _ | .arithmeticOverflow _ _ => 0

/-- R28, R304: the number that stands for a packet type in PTYPE and in `expected`. -/
def packetTypeBits : PacketType → BitVec 2
  | .invalid => 0
  | .data => 1
  | .context => 2

/-- R29: the number that stands for `REC.kind`. -/
def recKindBits : RecKind → BitVec 2
  | .none => 0
  | .data => 1
  | .context => 2

/-- R310: the entry checks of the two decoders, in their order: the size operand against 5 and against the
supply, the type code, and the missing word of S = 5. `w0` is the normalized word 0. -/
def entryChecks (S : BitVec 16) (nIn : BitVec 17) (found want : BitVec 4) (expected : BitVec 2) :
    Option ErrorOutcome :=
  if S.toNat < 5 then some (.sizeImplausible S false)
  else if nIn.toNat < S.toNat then some (.sizeImplausible S true)
  else if found ≠ want then some (.invalidPacketType found expected)
  else if S.toNat = 5 then some (.truncatedField siteFixed 5)
  else none

end Sys2Proof.Machine
end

