-- ==== Sys2Proof/Machine/Ops.lean ====
section
/-! DEFINITION. The named operations over the state: the four memories, the normalized read and write, the
OK outcome, the error outcome (R305: the one way an operation raises), and the caller's external actions
(R341, R347). -/

namespace Sys2Proof.Machine

/-! ## Memories (R50) -/

/-- The value listed for an address. -/
def lookupCell {w : Nat} : List (Nat × BitVec w) → Nat → Option (BitVec w)
  | [], _ => none
  | (b, v) :: rest, a => if a = b then some v else lookupCell rest a

/-- The list with the value at an address replaced, or put in its place in the order. -/
def insertCell {w : Nat} (a : Nat) (v : BitVec w) : List (Nat × BitVec w) → List (Nat × BitVec w)
  | [] => [(a, v)]
  | (b, u) :: rest =>
    if a < b then (a, v) :: (b, u) :: rest
    else if a = b then (a, v) :: rest
    else (b, u) :: insertCell a v rest

/-- What an entry reads as: its listed value, or the free value of the epoch (U1). -/
def Memory.read {w : Nat} (free : Nat → Nat → BitVec w) (m : Memory w) (a : Nat) : BitVec w :=
  (lookupCell m.cells a).getD (free m.epoch a)

/-- One entry written. -/
def Memory.write {w : Nat} (m : Memory w) (a : Nat) (v : BitVec w) : Memory w :=
  { m with cells := insertCell a v m.cells }

/-- Consecutive entries written, from address `a` on. -/
def Memory.writeFrom {w : Nat} (m : Memory w) (a : Nat) : List (BitVec w) → Memory w
  | [] => m
  | v :: vs => (m.write a v).writeFrom (a + 1) vs

/-- Every entry made unspecified: a new epoch with nothing listed. -/
def Memory.scramble {w : Nat} (epoch : Nat) : Memory w := ⟨epoch, []⟩

/-- Addresses strictly rising, each at least `lo` and below `size`. -/
def cellsWf {w : Nat} (size : Nat) : Nat → List (Nat × BitVec w) → Bool
  | _, [] => true
  | lo, (a, _) :: rest => lo ≤ a && a < size && cellsWf size (a + 1) rest

/-- The canonical form: addresses strictly rising, all inside the space. -/
def Memory.wf {w : Nat} (size : Nat) (m : Memory w) : Bool := cellsWf size 0 m.cells

/-- IBUF[a], a raw word (R21). -/
def State.ibufAt (s : State) (a : Nat) : Word := s.ibuf.read Config.freeIbuf a

/-- OBUF[a], a raw word (R23). -/
def State.obufAt (s : State) (a : Nat) : Word := s.obuf.read Config.freeObuf a

/-- RAWIQ[j] (R30). -/
def State.rawiqAt (s : State) (j : Nat) : Sample := s.rawiq.read Config.freeRawiq j

/-- SCALED[j] (R30). -/
def State.scaledAt (s : State) (j : Nat) : F64 := s.scaled.read Config.freeScaled j

/-- R11 `MemRead(a, 1)`: a normalized word. -/
def memRead (c : Config) (s : State) (a : Nat) : Word := normWord c (s.ibufAt a)

/-- R11 `MemRead(a, n)`. -/
def memReadList (c : Config) (s : State) (a n : Nat) : List Word :=
  (List.range' a n).map (memRead c s)

/-- R11 `MemWrite(a, n, v)`: normalized words land in OBUF in raw form. -/
def memWrite (c : Config) (s : State) (a : Nat) (ws : List Word) : State :=
  { s with obuf := s.obuf.writeFrom a (ws.map (normWord c)) }

/-- R220: the pairs `(RAWIQ[2k], RAWIQ[2k+1])`, k from `k0`, joined into payload words. -/
def payloadWords (c : Config) (s : State) (k0 n : Nat) : List Word :=
  (List.range' k0 n).map fun k => joinIQ c (s.rawiqAt (2 * k)) (s.rawiqAt (2 * k + 1))

/-! ## Outcomes of an operation (R301, R305) -/

/-- The OK outcome: STATUS <- (code OK, fatal 0, done 1); ERRINFO <- 0. -/
def complete (s : State) : State := { s with status := statusOk, errinfo := 0 }

/-- R305: what a failed decode leaves: kind NONE, CUR as the error says, the rest of REC, RAWIQ, SCALED and
NSAMP unspecified (free values of number `s.free`, U3). -/
def scrambleDecode (e : ErrorOutcome) (s : State) : State :=
  { s with
    cur    := errorCursor e
    record := { Config.freeRecord s.free with kind := .none }
    rawiq  := Memory.scramble s.free
    scaled := Memory.scramble s.free
    nsamp  := Config.freeNsamp s.free }

/-- R305: what a failed PEEK leaves: its results unspecified. -/
def scramblePeek (s : State) : State :=
  { s with
    ptype := Config.freePtype s.free
    pcode := Config.freePcode s.free
    psize := Config.freePsize s.free }

/-- R305: what a failed encode leaves: OBUF and N_OUT unspecified, N_OUT within its range (R23). -/
def scrambleEncode (s : State) : State :=
  { s with
    obuf := Memory.scramble s.free
    nOut := BitVec.ofNat 17 (Config.freeNOut s.free).val }

/-- R305: what each operation's error outcome leaves unspecified. The operations listed last raise nothing
(R306). -/
def scramble (op : Op) (e : ErrorOutcome) (s : State) : State :=
  match op with
  | .decodeData | .decodeContext => scrambleDecode e s
  | .peek => scramblePeek s
  | .encodeData | .encodeContext => scrambleEncode s
  | .toFixed => { s with fxintOut := Config.freeFxint s.free }
  | .normalize | .toFloat | .packHeader | .packTrailer | .packIndicator => s

/-- R305: the error outcome, as one atomic step: STATUS and ERRINFO, what the operation's failure makes
unspecified, and the next free value's number. Everything else is unchanged. -/
def raiseError (op : Op) (e : ErrorOutcome) (s : State) : State :=
  { scramble op e s with status := errorStatus e, errinfo := errorInfo e, free := s.free + 1 }

/-! ## The caller's actions between operations (R341, R347) -/

/-- R347: words of IBUF, in the order written. -/
def loadWords (m : Memory 32) : List (BitVec 16 × Word) → Memory 32
  | [] => m
  | (a, w) :: rest => loadWords (m.write a.toNat w) rest

/-- R347: a transport load: any words of IBUF and then N_IN, to any value up to BUF_WORDS. -/
def transportLoad (c : Config) (words : List (BitVec 16 × Word)) (nIn : BitVec 17) (s : State) :
    Host.Outcome State Fault Refusal :=
  if nIn.toNat ≤ c.bufWords ∧ words.all (fun p => p.1.toNat < c.bufWords) then
    .next { s with ibuf := loadWords s.ibuf words, nIn := nIn }
  else .refused .loadPastBuffer

/-- R347: one write of the host. -/
def hostWriteOne (s : State) : HostWrite → State
  | .kind v => { s with record := { s.record with kind := v } }
  | .proType v => { s with record := { s.record with pro := { s.record.pro with type := v } } }
  | .proHdrFlags v => { s with record := { s.record with pro := { s.record.pro with hdrFlags := v } } }
  | .proCount v => { s with record := { s.record with pro := { s.record.pro with count := v } } }
  | .proSize v => { s with record := { s.record with pro := { s.record.pro with size := v } } }
  | .proStreamId v => { s with record := { s.record with pro := { s.record.pro with streamId := v } } }
  | .proTsInt v => { s with record := { s.record with pro := { s.record.pro with tsInt := v } } }
  | .proTsFrac v => { s with record := { s.record with pro := { s.record.pro with tsFrac := v } } }
  | .trlPair p v => { s with record := { s.record with trl := s.record.trl.setPair v p } }
  | .trlCtxCount v => { s with record := { s.record with trl := { s.record.trl with ctxCount := v } } }
  | .ctxIndicator v => { s with record := { s.record with ctx := { s.record.ctx with indicator := v } } }
  | .ctxUnknownBits v =>
    { s with record := { s.record with ctx := { s.record.ctx with unknownBits := v } } }
  | .ctxField name v => { s with record := { s.record with ctx := s.record.ctx.set name v } }
  | .rawiq i v => { s with rawiq := s.rawiq.write i.toNat v }
  | .nsamp v => { s with nsamp := v }

/-- R347: the writes of the host in their order. -/
def hostRecordWrite : List HostWrite → State → State
  | [], s => s
  | w :: ws, s => hostRecordWrite ws (hostWriteOne s w)

/-- R347, R241: whether a write names a place that an instance has, with a value of the place's type: the members
of REC.ctx are those of the rows of FIELD_TABLE (log 17). -/
def hostWriteOk (c : Config) : HostWrite → Bool
  | .ctxField name v => c.fieldTable.any fun r => r.name = name && v.all r.dec.fits
  | .kind _ | .proType _ | .proHdrFlags _ | .proCount _ | .proSize _ | .proStreamId _ | .proTsInt _
  | .proTsFrac _ | .trlPair _ _ | .trlCtxCount _ | .ctxIndicator _ | .ctxUnknownBits _ | .rawiq _ _
  | .nsamp _ => true

/-- R347: a host record write. -/
def hostRecord (c : Config) (writes : List HostWrite) (s : State) : Host.Outcome State Fault Refusal :=
  if writes.all (hostWriteOk c) then .next (hostRecordWrite writes s) else .refused .notAMember

/-- R341: `rst`: every field at its reset value; the memories begin a new epoch (log 3); what the caller does
next is its own. -/
def resetNow (s : State) : State := State.resetWith s.free (s.free + 1) s.pending

/-- What the decoder's rejections are refused as. -/
def refusalOf : Reject → Refusal
  | .reservedWidth => .reservedWidth
  | .reservedSelector op => .reservedCommand op
  | .noHeaderRow => .notATableRow .noHeaderRow
  | .noTrailerRow => .notATableRow .noTrailerRow
  | .noIndicatorRow => .notATableRow .noIndicatorRow

/-- R346: the command (or packet word) at the head of the caller's actions becomes `f`. -/
def presentFetch (s : State) (f : Fetch) : State := { s with pending := .fetch f :: s.pending }

end Sys2Proof.Machine
end

