-- ==== Sys2Proof/Machine/DataPacket.lean ====
section
/-! DEFINITION. DPD: the DECODE_DATA, ENCODE_DATA and PACK_TRAILER commands, the payload-word row and the six
trailer rows (`spec/43_data_packet.md`). -/

namespace Sys2Proof.Machine

/-- R173: the prologue of the packet at IBUF index 0. -/
def readPrologue (c : Config) (s : State) : Prologue :=
  extractPrologue c (memRead c s 0) (memRead c s 1) (memRead c s 2) (memRead c s 3) (memRead c s 4)

/-- R310, for a decode operation whose own type code is `want`. -/
def entryChecksOf (c : Config) (S : BitVec 16) (want : BitVec 4) (kind : PacketType) (s : State) :
    Option ErrorOutcome :=
  entryChecks S s.nIn (headerType c (memRead c s 0)) want (packetTypeBits kind)

/-- R201, after the entry checks: 6 ≤ S ≤ N_IN. -/
def decodeDataBody (c : Config) (S : BitVec 16) (ref : F64) (s : State) : State :=
  let P := S.toNat - 6
  let samples := splitPayload c (memReadList c s 5 P)
  let g := c.refScale ref
  complete
    { s with
      record := { s.record with
        kind := .data
        pro  := readPrologue c s
        trl  := decodeTrailer c (memRead c s (S.toNat - 1)) }
      rawiq  := s.rawiq.writeFrom 0 samples
      scaled := s.scaled.writeFrom 0 (samples.map fun r => scaleSample c.floatFmt r g)
      nsamp  := BitVec.ofNat 18 (2 * P)
      cur    := S.setWidth 17 }

/-- R201. -/
def decodeDataOp (c : Config) (S : BitVec 16) (ref : F64) (s : State) : State :=
  match entryChecksOf c S c.typeData .data s with
  | some e => raiseError .decodeData e s
  | none => decodeDataBody c S ref s

/-- R220: the words of the packet, normalized, of size `6 + NSAMP/2`. -/
def dataPacketWords (c : Config) (s : State) : List Word :=
  let P := s.nsamp.toNat / 2
  prologueWords c c.typeData (BitVec.ofNat 16 (6 + P)) s.record.pro ++
    payloadWords c s 0 P ++ [packTrailerWord c s.record.trl]

/-- R220, for an even NSAMP. -/
def encodeDataOp (c : Config) (s : State) : State :=
  let size := 6 + s.nsamp.toNat / 2
  if Config.maxPacketWords < size then raiseError .encodeData (.arithmeticOverflow siteSize 0) s
  else complete { memWrite c s 0 (dataPacketWords c s) with nOut := BitVec.ofNat 17 size }

/-- R215. -/
def packTrailerOp (c : Config) (s : State) : State :=
  complete { s with packout := packTrailerWord c s.record.trl }

/-- R211: one pair whose enable bit is set: `trl.pair[name] <- some indicator`. -/
def setTrailerPair (p : TrailerName) (b : Bool) (s : State) : State :=
  { s with record := { s.record with trl := s.record.trl.setPair (some b) p } }

/-- R211: the count, its enable bit set. -/
def setTrailerCount (n : BitVec 6) (s : State) : State :=
  { s with record := { s.record with trl := { s.record.trl with ctxCount := some n } } }

/-- R220, U8: ENCODE_DATA; an odd NSAMP is refused. -/
def encodeDataCommand (c : Config) (s : State) : Host.Outcome State Fault Refusal :=
  if s.nsamp.toNat % 2 = 0 then .next (encodeDataOp c s) else .refused .oddSampleCount

/-- R202: a pair becomes the next two entries of RAWIQ, as in the payload loop of R201; NSAMP counts them
(log 10). An entry past the end of RAWIQ does not exist (R50). -/
def appendPair (i q : Sample) (s : State) : Host.Outcome State Fault Refusal :=
  if s.nsamp.toNat + 2 ≤ Config.sampleStoreSize then
    .next { s with
      rawiq := s.rawiq.writeFrom s.nsamp.toNat [i, q]
      nsamp := BitVec.ofNat 18 (s.nsamp.toNat + 2) }
  else .fault .sampleStoreEnd

/-- DECODE_DATA (R201). -/
def execDecodeData (S : BitVec 16) (ref : F64) (s : State) : Host.Outcome State Fault Refusal :=
  .next (decodeDataOp Config.phpc S ref s)

/-- ENCODE_DATA (R220). -/
def execEncodeData (s : State) : Host.Outcome State Fault Refusal := encodeDataCommand Config.phpc s

/-- PACK_TRAILER (R215). -/
def execPackTrailer (s : State) : Host.Outcome State Fault Refusal :=
  .next (packTrailerOp Config.phpc s)

/-- IQ (R202). -/
def execIq (i q : Sample) (s : State) : Host.Outcome State Fault Refusal := appendPair i q s

/-- TRL.calibratedTime (R211): the pair present, with the indicator's value. -/
def execTrlCalibratedTime (b : Bool) (s : State) : Host.Outcome State Fault Refusal :=
  .next (setTrailerPair .calibratedTime b s)

/-- TRL.validData (R211). -/
def execTrlValidData (b : Bool) (s : State) : Host.Outcome State Fault Refusal :=
  .next (setTrailerPair .validData b s)

/-- TRL.referenceLock (R211). -/
def execTrlReferenceLock (b : Bool) (s : State) : Host.Outcome State Fault Refusal :=
  .next (setTrailerPair .referenceLock b s)

/-- TRL.overRange (R211). -/
def execTrlOverRange (b : Bool) (s : State) : Host.Outcome State Fault Refusal :=
  .next (setTrailerPair .overRange b s)

/-- TRL.sampleLoss (R211). -/
def execTrlSampleLoss (b : Bool) (s : State) : Host.Outcome State Fault Refusal :=
  .next (setTrailerPair .sampleLoss b s)

/-- TRL.ctxCount (R211): the count present. -/
def execTrlCtxCount (n : BitVec 6) (s : State) : Host.Outcome State Fault Refusal :=
  .next (setTrailerCount n s)

end Sys2Proof.Machine
end

