-- ==== Sys2Proof/Machine/ContextPacket.lean ====
section
/-! DEFINITION. CFD: the DECODE_CONTEXT, ENCODE_CONTEXT and PACK_INDICATOR commands and the eighteen rows of
the field table (`spec/44_context_packet.md`). -/

namespace Sys2Proof.Machine

/-- R244, the body of the walk's loop for one row. `present` is the row's indicator bit; `rd` reads a
normalized word of the packet; the bound is `S`. -/
def walkRow (c : Config) (S idx : Nat) (row : FieldRow) (present : Bool) (rd : Nat → Word)
    (cur : Nat) (x : ContextRec) : Except ErrorOutcome (ContextRec × Nat) :=
  if present then
    if 0 < row.dec.width ∧ S < cur + row.dec.width then
      .error (.truncatedField (BitVec.ofNat 6 idx) (BitVec.ofNat 17 cur))
    else
      .ok (x.set row.name (some (decodeValue c row.dec fun k => rd (cur + k))), cur + row.dec.width)
  else .ok (x.set row.name none, cur + skipWords c row)

/-- R244: the walk over the rows from number `idx` on, in table order. -/
def walk (c : Config) (S : Nat) (ind : Word) (rd : Nat → Word) :
    Nat → List FieldRow → Nat → ContextRec → Except ErrorOutcome (ContextRec × Nat)
  | _, [], cur, x => .ok (x, cur)
  | idx, r :: rows, cur, x =>
    match walkRow c S idx r (ind.getLsbD r.bit) rd cur x with
    | .error e => .error e
    | .ok (x', cur') => walk c S ind rd (idx + 1) rows cur' x'

/-- R244: the walk of the packet at IBUF index 0. Every member is written, so none keeps a value. -/
def walkPacket (c : Config) (S : BitVec 16) (s : State) : Except ErrorOutcome (ContextRec × Nat) :=
  let ind := memRead c s 5
  walk c S.toNat ind (memRead c s) 0 c.fieldTable 6
    { ContextRec.empty with indicator := ind, unknownBits := ind &&& ~~~ c.tableMask }

/-- R244. -/
def decodeContextOp (c : Config) (S : BitVec 16) (s : State) : State :=
  match entryChecksOf c S c.typeContext .context s with
  | some e => raiseError .decodeContext e s
  | none =>
    match walkPacket c S s with
    | .error e => raiseError .decodeContext e s
    | .ok (x, cur) =>
      complete
        { s with
          record := { s.record with kind := .context, pro := readPrologue c s, ctx := x }
          cur    := BitVec.ofNat 17 cur }

/-- R262: the body, row by row in table order; the error is that of the first row that overflows. -/
def encodeRows (c : Config) (x : ContextRec) : Nat → List FieldRow → Except ErrorOutcome (List Word)
  | _, [] => .ok []
  | idx, r :: rows =>
    match encodeRow c r x with
    | .error sub => .error (.arithmeticOverflow (BitVec.ofNat 6 idx) (BitVec.ofNat 4 sub))
    | .ok ws =>
      match encodeRows c x (idx + 1) rows with
      | .error e => .error e
      | .ok rest => .ok (ws ++ rest)

/-- R262: the words of the packet with this body, normalized. -/
def contextPacketWords (c : Config) (r : Record) (body : List Word) : List Word :=
  prologueWords c c.typeContext (BitVec.ofNat 16 (6 + body.length)) r.pro ++
    packIndicatorWord c r.ctx :: body

/-- R262. -/
def encodeContextOp (c : Config) (s : State) : State :=
  match encodeRows c s.record.ctx 0 c.fieldTable with
  | .error e => raiseError .encodeContext e s
  | .ok body =>
    if Config.maxPacketWords < 6 + body.length then
      raiseError .encodeContext (.arithmeticOverflow siteSize 0) s
    else
      complete
        { memWrite c s 0 (contextPacketWords c s.record body) with
          nOut := BitVec.ofNat 17 (6 + body.length) }

/-- R260. -/
def packIndicatorOp (c : Config) (s : State) : State :=
  complete { s with packout := packIndicatorWord c s.record.ctx }

/-- A present row of the field table, met at CUR: the loop body of R244 for one row. The packet is the N_IN
words supplied (log 10). -/
def presentField (c : Config) (idx : Nat) (row : FieldRow) (s : State) : State :=
  match walkRow c s.nIn.toNat idx row true (memRead c s) s.cur.toNat s.record.ctx with
  | .error e => raiseError .decodeContext e s
  | .ok (x, cur) => { s with record := { s.record with ctx := x }, cur := BitVec.ofNat 17 cur }

/-- DECODE_CONTEXT (R244). -/
def execDecodeContext (S : BitVec 16) (s : State) : Host.Outcome State Fault Refusal :=
  .next (decodeContextOp Config.phpc S s)

/-- ENCODE_CONTEXT (R262). -/
def execEncodeContext (s : State) : Host.Outcome State Fault Refusal :=
  .next (encodeContextOp Config.phpc s)

/-- PACK_INDICATOR (R260). -/
def execPackIndicator (s : State) : Host.Outcome State Fault Refusal :=
  .next (packIndicatorOp Config.phpc s)

/-- CIF.changeIndicator, row 0 (R250). -/
def execCifChangeIndicator (s : State) : Host.Outcome State Fault Refusal :=
  .next (presentField Config.phpc 0 Config.rowChangeIndicator s)

/-- CIF.referencePointId, row 1 (R251). -/
def execCifReferencePointId (s : State) : Host.Outcome State Fault Refusal :=
  .next (presentField Config.phpc 1 Config.rowReferencePointId s)

/-- CIF.bandwidth, row 2 (R252). -/
def execCifBandwidth (s : State) : Host.Outcome State Fault Refusal :=
  .next (presentField Config.phpc 2 Config.rowBandwidth s)

/-- CIF.ifRefFreq, row 3 (R252). -/
def execCifIfRefFreq (s : State) : Host.Outcome State Fault Refusal :=
  .next (presentField Config.phpc 3 Config.rowIfRefFreq s)

/-- CIF.rfRefFreq, row 4 (R252). -/
def execCifRfRefFreq (s : State) : Host.Outcome State Fault Refusal :=
  .next (presentField Config.phpc 4 Config.rowRfRefFreq s)

/-- CIF.rfRefFreqOffset, row 5 (R252). -/
def execCifRfRefFreqOffset (s : State) : Host.Outcome State Fault Refusal :=
  .next (presentField Config.phpc 5 Config.rowRfRefFreqOffset s)

/-- CIF.ifBandOffset, row 6 (R252). -/
def execCifIfBandOffset (s : State) : Host.Outcome State Fault Refusal :=
  .next (presentField Config.phpc 6 Config.rowIfBandOffset s)

/-- CIF.referenceLevel, row 7 (R253). -/
def execCifReferenceLevel (s : State) : Host.Outcome State Fault Refusal :=
  .next (presentField Config.phpc 7 Config.rowReferenceLevel s)

/-- CIF.gain, row 8 (R253). -/
def execCifGain (s : State) : Host.Outcome State Fault Refusal :=
  .next (presentField Config.phpc 8 Config.rowGain s)

/-- CIF.overRangeCount, row 9 (R251). -/
def execCifOverRangeCount (s : State) : Host.Outcome State Fault Refusal :=
  .next (presentField Config.phpc 9 Config.rowOverRangeCount s)

/-- CIF.sampleRate, row 10 (R252). -/
def execCifSampleRate (s : State) : Host.Outcome State Fault Refusal :=
  .next (presentField Config.phpc 10 Config.rowSampleRate s)

/-- CIF.timestampAdjustment, row 11 (R251). -/
def execCifTimestampAdjustment (s : State) : Host.Outcome State Fault Refusal :=
  .next (presentField Config.phpc 11 Config.rowTimestampAdjustment s)

/-- CIF.timestampCalTime, row 12 (R251). -/
def execCifTimestampCalTime (s : State) : Host.Outcome State Fault Refusal :=
  .next (presentField Config.phpc 12 Config.rowTimestampCalTime s)

/-- CIF.temperature, row 13 (R253). -/
def execCifTemperature (s : State) : Host.Outcome State Fault Refusal :=
  .next (presentField Config.phpc 13 Config.rowTemperature s)

/-- CIF.deviceId, row 14 (R254). -/
def execCifDeviceId (s : State) : Host.Outcome State Fault Refusal :=
  .next (presentField Config.phpc 14 Config.rowDeviceId s)

/-- CIF.stateEventIndicators, row 15 (R251). -/
def execCifStateEventIndicators (s : State) : Host.Outcome State Fault Refusal :=
  .next (presentField Config.phpc 15 Config.rowStateEventIndicators s)

/-- CIF.dataPayloadFormat, row 16 (R251). -/
def execCifDataPayloadFormat (s : State) : Host.Outcome State Fault Refusal :=
  .next (presentField Config.phpc 16 Config.rowDataPayloadFormat s)

/-- CIF.geolocation, row 17 (R256). -/
def execCifGeolocation (s : State) : Host.Outcome State Fault Refusal :=
  .next (presentField Config.phpc 17 Config.rowGeolocation s)

end Sys2Proof.Machine
end

