-- ==== Sys2Proof/Machine/FixedPoint.lean ====
section
/-! DEFINITION. FXC: the TO_FIXED and TO_FLOAT commands (`spec/41_fixed_point.md`). -/

namespace Sys2Proof.Machine

/-- R145, at the integer width `W`. -/
def toFixedOp (c : Config) (fxval : F64) (frac : BitVec 6) (W : Nat) (s : State) : State :=
  match toFixed c.floatFmt c.fxRound fxval frac.toNat W with
  | none => raiseError .toFixed (.arithmeticOverflow siteDirect 0) s
  | some i => complete { s with fxintOut := (BitVec.ofInt W i).signExtend 64 }

/-- R142, at the integer width `W`. -/
def toFloatOp (c : Config) (fxint : BitVec 64) (frac : BitVec 6) (W : Nat) (s : State) : State :=
  complete { s with fxvalOut := toFloat c.floatFmt (fixedOperand W fxint) frac.toNat }

/-- R145, R82: TO_FIXED at a width code; 3 is reserved. -/
def toFixedCommand (c : Config) (fxval : F64) (frac : BitVec 6) (width : BitVec 2) (s : State) :
    Host.Outcome State Fault Refusal :=
  match widthBits width with
  | none => .refused .reservedWidth
  | some W => .next (toFixedOp c fxval frac W s)

/-- R142, R82: TO_FLOAT at a width code; 3 is reserved. -/
def toFloatCommand (c : Config) (fxint : BitVec 64) (frac : BitVec 6) (width : BitVec 2) (s : State) :
    Host.Outcome State Fault Refusal :=
  match widthBits width with
  | none => .refused .reservedWidth
  | some W => .next (toFloatOp c fxint frac W s)

/-- TO_FIXED (R145). -/
def execToFixed (fxval : F64) (frac : BitVec 6) (width : BitVec 2) (s : State) :
    Host.Outcome State Fault Refusal := toFixedCommand Config.phpc fxval frac width s

/-- TO_FLOAT (R142). -/
def execToFloat (fxint : BitVec 64) (frac : BitVec 6) (width : BitVec 2) (s : State) :
    Host.Outcome State Fault Refusal := toFloatCommand Config.phpc fxint frac width s

end Sys2Proof.Machine
end

