-- ==== Sys2Proof/Machine/Normalize.lean ====
section
/-! DEFINITION. BON: the NORMALIZE command (`spec/40_normalize.md`). -/

namespace Sys2Proof.Machine

/-- R123: OBUF[k] <- norm(IBUF[k]) for k below N_IN; N_OUT <- N_IN. -/
def normalizeOp (c : Config) (s : State) : State :=
  complete
    { s with
      obuf := s.obuf.writeFrom 0 (memReadList c s 0 s.nIn.toNat)
      nOut := s.nIn }

/-- NORMALIZE (R123). -/
def execNormalize (s : State) : Host.Outcome State Fault Refusal := .next (normalizeOp Config.phpc s)

end Sys2Proof.Machine
end

