-- ==== Sys2Proof/Machine/Peek.lean ====
section
/-! DEFINITION. PKP: the PEEK and PACK_HEADER commands and the two header-word rows
(`spec/42_peek_prologue.md`, R84). -/

namespace Sys2Proof.Machine

/-- R175: PCODE, PSIZE and PTYPE from a normalized header word. -/
def peekWord (c : Config) (w : Word) (s : State) : State :=
  { s with pcode := headerType c w, psize := headerSize c w, ptype := classify c w }

/-- R175. -/
def peekOp (c : Config) (s : State) : State :=
  if s.nIn = 0 then raiseError .peek (.sizeImplausible 0 true) s
  else complete (peekWord c (memRead c s 0) s)

/-- R180. -/
def packHeaderOp (c : Config) (s : State) : State :=
  complete
    { s with
      packout := packHeaderWord c s.record.pro.type s.record.pro.hdrFlags s.record.pro.count
        s.record.pro.size }

/-- R84: a header word of this type code with these fields, classified by the lines of PEEK that read the word
(log 8). -/
def peekFields (c : Config) (type : BitVec 4) (hdrFlags : BitVec 8) (count : BitVec 4) (size : BitVec 16)
    (s : State) : State := peekWord c (packHeaderWord c type hdrFlags count size) s

/-- PEEK (R175). -/
def execPeek (s : State) : Host.Outcome State Fault Refusal := .next (peekOp Config.phpc s)

/-- PACK_HEADER (R180). -/
def execPackHeader (s : State) : Host.Outcome State Fault Refusal := .next (packHeaderOp Config.phpc s)

/-- HDR.DATA (R84): type code TYPE_DATA. -/
def execHdrData (hdrFlags : BitVec 8) (count : BitVec 4) (size : BitVec 16) (s : State) :
    Host.Outcome State Fault Refusal :=
  .next (peekFields Config.phpc Config.phpc.typeData hdrFlags count size s)

/-- HDR.CONTEXT (R84): type code TYPE_CONTEXT. -/
def execHdrContext (hdrFlags : BitVec 8) (count : BitVec 4) (size : BitVec 16) (s : State) :
    Host.Outcome State Fault Refusal :=
  .next (peekFields Config.phpc Config.phpc.typeContext hdrFlags count size s)

end Sys2Proof.Machine
end

