-- ==== Sys2Proof/Machine/Reserved.lean ====
section
/-! DEFINITION. The reserved command selectors (R82): the spec gives them no meaning and asks a model to refuse
them (U6). -/

namespace Sys2Proof.Machine

/-- R82, U6: a reserved selector has no step. -/
def refuseReserved (op : BitVec 4) : Host.Outcome State Fault Refusal := .refused (.reservedCommand op)

/-- RESERVED_OP_0 (R82). -/
def execReservedOp0 (_ : State) : Host.Outcome State Fault Refusal := refuseReserved 0x0

/-- RESERVED_OP_C (R82). -/
def execReservedOpC (_ : State) : Host.Outcome State Fault Refusal := refuseReserved 0xC

/-- RESERVED_OP_D (R82). -/
def execReservedOpD (_ : State) : Host.Outcome State Fault Refusal := refuseReserved 0xD

/-- RESERVED_OP_E (R82). -/
def execReservedOpE (_ : State) : Host.Outcome State Fault Refusal := refuseReserved 0xE

/-- RESERVED_OP_F (R82). -/
def execReservedOpF (_ : State) : Host.Outcome State Fault Refusal := refuseReserved 0xF

end Sys2Proof.Machine
end

