-- ==== Sys2Proof/Machine/Dispatch.lean ====
section
/-! DEFINITION. What each instruction does: one arm per constructor, one meaning per arm. -/

namespace Sys2Proof.Machine

def exec (i : Instr) (s : State) : Host.Outcome State Fault Refusal :=
  match i with
  | .normalize => Sys2Proof.Machine.execNormalize s
  | .peek => Sys2Proof.Machine.execPeek s
  | .decodeData S ref => Sys2Proof.Machine.execDecodeData S ref s
  | .decodeContext S => Sys2Proof.Machine.execDecodeContext S s
  | .encodeData => Sys2Proof.Machine.execEncodeData s
  | .encodeContext => Sys2Proof.Machine.execEncodeContext s
  | .toFixed fxval frac width => Sys2Proof.Machine.execToFixed fxval frac width s
  | .toFloat fxint frac width => Sys2Proof.Machine.execToFloat fxint frac width s
  | .packHeader => Sys2Proof.Machine.execPackHeader s
  | .packTrailer => Sys2Proof.Machine.execPackTrailer s
  | .packIndicator => Sys2Proof.Machine.execPackIndicator s
  | .reservedOp0 => Sys2Proof.Machine.execReservedOp0 s
  | .reservedOpC => Sys2Proof.Machine.execReservedOpC s
  | .reservedOpD => Sys2Proof.Machine.execReservedOpD s
  | .reservedOpE => Sys2Proof.Machine.execReservedOpE s
  | .reservedOpF => Sys2Proof.Machine.execReservedOpF s
  | .hdrData hdrFlags count size => Sys2Proof.Machine.execHdrData hdrFlags count size s
  | .hdrContext hdrFlags count size => Sys2Proof.Machine.execHdrContext hdrFlags count size s
  | .iq x y => Sys2Proof.Machine.execIq x y s
  | .trlCalibratedTime indicator => Sys2Proof.Machine.execTrlCalibratedTime indicator s
  | .trlValidData indicator => Sys2Proof.Machine.execTrlValidData indicator s
  | .trlReferenceLock indicator => Sys2Proof.Machine.execTrlReferenceLock indicator s
  | .trlOverRange indicator => Sys2Proof.Machine.execTrlOverRange indicator s
  | .trlSampleLoss indicator => Sys2Proof.Machine.execTrlSampleLoss indicator s
  | .trlCtxCount count => Sys2Proof.Machine.execTrlCtxCount count s
  | .cifChangeIndicator => Sys2Proof.Machine.execCifChangeIndicator s
  | .cifReferencePointId => Sys2Proof.Machine.execCifReferencePointId s
  | .cifBandwidth => Sys2Proof.Machine.execCifBandwidth s
  | .cifIfRefFreq => Sys2Proof.Machine.execCifIfRefFreq s
  | .cifRfRefFreq => Sys2Proof.Machine.execCifRfRefFreq s
  | .cifRfRefFreqOffset => Sys2Proof.Machine.execCifRfRefFreqOffset s
  | .cifIfBandOffset => Sys2Proof.Machine.execCifIfBandOffset s
  | .cifReferenceLevel => Sys2Proof.Machine.execCifReferenceLevel s
  | .cifGain => Sys2Proof.Machine.execCifGain s
  | .cifOverRangeCount => Sys2Proof.Machine.execCifOverRangeCount s
  | .cifSampleRate => Sys2Proof.Machine.execCifSampleRate s
  | .cifTimestampAdjustment => Sys2Proof.Machine.execCifTimestampAdjustment s
  | .cifTimestampCalTime => Sys2Proof.Machine.execCifTimestampCalTime s
  | .cifTemperature => Sys2Proof.Machine.execCifTemperature s
  | .cifDeviceId => Sys2Proof.Machine.execCifDeviceId s
  | .cifStateEventIndicators => Sys2Proof.Machine.execCifStateEventIndicators s
  | .cifDataPayloadFormat => Sys2Proof.Machine.execCifDataPayloadFormat s
  | .cifGeolocation => Sys2Proof.Machine.execCifGeolocation s

end Sys2Proof.Machine
end

