-- ==== Sys2Proof/Machine/Fetch.lean ====
section
/-! DEFINITION. Running what the caller presents: a fetched command or packet word, decoded and run, and the
caller's other actions. `run` runs an instruction. -/

namespace Sys2Proof.Machine

/-- R346: the fetched command or packet word, decoded and run. -/
def runFetch (c : Config) (run : Instr → State → Host.Outcome State Fault Refusal) (f : Fetch) (s : State) :
    Host.Outcome State Fault Refusal :=
  match decodeWith c f with
  | .ok i => run i s
  | .error why => .refused (refusalOf why)

/-- One of the caller's actions. -/
def runAction (c : Config) (run : Instr → State → Host.Outcome State Fault Refusal) (a : Action) (s : State) :
    Host.Outcome State Fault Refusal :=
  match a with
  | .fetch f => runFetch c run f s
  | .load words nIn => transportLoad c words nIn s
  | .hostWrite writes => hostRecord c writes s
  | .reset => .next (resetNow s)

/-- R346: the caller's next action, taken off its list; with none, nothing changes. -/
def runPending (c : Config) (run : Instr → State → Host.Outcome State Fault Refusal) (s : State) :
    Host.Outcome State Fault Refusal :=
  match s.pending with
  | [] => .next s
  | a :: rest => runAction c run a { s with pending := rest }

end Sys2Proof.Machine
end

