-- ==== Sys2Proof/Machine/Step.lean ====
section
/-! DEFINITION. One step of the machine: the caller's next action. A command is accepted, decoded and run to
its outcome in one atomic transition (R13, R346); loads, host writes and `rst` come between operations
(R60, R347). With no action pending nothing changes (R346 item 4). -/

namespace Sys2Proof.Machine

/-- One step of the instance with the values that R8 takes. -/
def step (s : State) : Host.Outcome State Fault Refusal := runPending Config.phpc exec s

/-- The state in which the next step fetches and runs the instruction of the opcode table whose bits are `w`
(log 6). -/
def State.withFetchWord (s : State) (nbits w : Nat) : State :=
  presentFetch s (fetchOfTableWord nbits w)

end Sys2Proof.Machine
end

