-- ==== Sys2Proof/Machine/Caller.lean ====
section
/-! DEFINITION. The caller's own control flow over the machine, which the spec writes out although it is not
a command of PHPC: the pseudo-operation DECODE_AUTO (R182) and the draining of a stream (R183). -/

namespace Sys2Proof.Machine

/-- R182: the decode that PEEK's result selects, with S = PSIZE. An INVALID packet goes to DECODE_DATA. -/
def autoSelect (ref : F64) (s : State) : Instr :=
  if s.ptype = .context then .decodeContext s.psize else .decodeData s.psize ref

/-- R182: DECODE_AUTO: PEEK, and unless it raises, the decode it selects. -/
def decodeAuto (ref : F64) (s : State) : Host.Outcome State Fault Refusal :=
  match exec .peek s with
  | .next t => if statusCode t.status = 0 then exec (autoSelect ref t) t else .next t
  | .fault r => .fault r
  | .refused r => .refused r

/-- R183: the caller's reference level after a decode: that of the context packet, if it carries one. -/
def threadRef (ref : F64) (s : State) : F64 :=
  if statusCode s.status = 0 ∧ s.record.kind = .context then
    match s.record.ctx.get .referenceLevel with
    | some (.float x) => x
    | _ => ref
  else ref

/-- R183: the words a caller loads: the stream from the packet boundary on, as much as IBUF holds. -/
def boundaryWords (stream : List Word) : List (BitVec 16 × Word) :=
  (stream.take Config.phpc.bufWords).zipIdx.map fun p => (BitVec.ofNat 16 p.2, p.1)

/-- R183: draining a stream of raw words, at most `fuel` packets. The stream advances by the declared size;
a fatal outcome stops it. -/
def drain : Nat → List Word → F64 → State → Host.Outcome State Fault Refusal
  | 0, _, _, s => .next s
  | _, [], _, s => .next s
  | fuel + 1, w :: ws, ref, s =>
    let words := boundaryWords (w :: ws)
    match transportLoad Config.phpc words (BitVec.ofNat 17 words.length) s with
    | .fault r => .fault r
    | .refused r => .refused r
    | .next s1 =>
      match decodeAuto ref s1 with
      | .fault r => .fault r
      | .refused r => .refused r
      | .next s2 =>
        if statusFatal s2.status then .next s2
        else drain fuel ((w :: ws).drop s2.psize.toNat) (threadRef ref s2) s2

end Sys2Proof.Machine
end

