-- ==== Sys2Proof/Machine/Instance.lean ====
section
/-! DEFINITION. Any instance of PHPC (R8, R34): the meanings of the instructions and the step over the
configuration as an argument. `exec` and `step` are these at `Config.phpc` (`Laws/Instance.lean`). -/

namespace Sys2Proof.Machine

/-- The row of a list with this name, with its number, counted from `idx`. -/
def rowNamed (name : FieldName) : Nat → List FieldRow → Option (Nat × FieldRow)
  | _, [] => none
  | idx, r :: rows => if r.name = name then some (idx, r) else rowNamed name (idx + 1) rows

/-- A present field met at CUR, by its member's name. A table without such a row has no such word. -/
def presentNamed (c : Config) (name : FieldName) (s : State) : Host.Outcome State Fault Refusal :=
  match rowNamed name 0 c.fieldTable with
  | some (idx, row) => .next (presentField c idx row s)
  | none => .refused (.notATableRow .noIndicatorRow)

/-- The meaning of an instruction on an instance. -/
def execWith (c : Config) (i : Instr) (s : State) : Host.Outcome State Fault Refusal :=
  match i with
  | .normalize => .next (normalizeOp c s)
  | .peek => .next (peekOp c s)
  | .decodeData S ref => .next (decodeDataOp c S ref s)
  | .decodeContext S => .next (decodeContextOp c S s)
  | .encodeData => encodeDataCommand c s
  | .encodeContext => .next (encodeContextOp c s)
  | .toFixed fxval frac width => toFixedCommand c fxval frac width s
  | .toFloat fxint frac width => toFloatCommand c fxint frac width s
  | .packHeader => .next (packHeaderOp c s)
  | .packTrailer => .next (packTrailerOp c s)
  | .packIndicator => .next (packIndicatorOp c s)
  | .reservedOp0 => refuseReserved 0x0
  | .reservedOpC => refuseReserved 0xC
  | .reservedOpD => refuseReserved 0xD
  | .reservedOpE => refuseReserved 0xE
  | .reservedOpF => refuseReserved 0xF
  | .hdrData hdrFlags count size => .next (peekFields c c.typeData hdrFlags count size s)
  | .hdrContext hdrFlags count size => .next (peekFields c c.typeContext hdrFlags count size s)
  | .iq i q => appendPair i q s
  | .trlCalibratedTime b => .next (setTrailerPair .calibratedTime b s)
  | .trlValidData b => .next (setTrailerPair .validData b s)
  | .trlReferenceLock b => .next (setTrailerPair .referenceLock b s)
  | .trlOverRange b => .next (setTrailerPair .overRange b s)
  | .trlSampleLoss b => .next (setTrailerPair .sampleLoss b s)
  | .trlCtxCount n => .next (setTrailerCount n s)
  | .cifChangeIndicator => presentNamed c .changeIndicator s
  | .cifReferencePointId => presentNamed c .referencePointId s
  | .cifBandwidth => presentNamed c .bandwidth s
  | .cifIfRefFreq => presentNamed c .ifRefFreq s
  | .cifRfRefFreq => presentNamed c .rfRefFreq s
  | .cifRfRefFreqOffset => presentNamed c .rfRefFreqOffset s
  | .cifIfBandOffset => presentNamed c .ifBandOffset s
  | .cifReferenceLevel => presentNamed c .referenceLevel s
  | .cifGain => presentNamed c .gain s
  | .cifOverRangeCount => presentNamed c .overRangeCount s
  | .cifSampleRate => presentNamed c .sampleRate s
  | .cifTimestampAdjustment => presentNamed c .timestampAdjustment s
  | .cifTimestampCalTime => presentNamed c .timestampCalTime s
  | .cifTemperature => presentNamed c .temperature s
  | .cifDeviceId => presentNamed c .deviceId s
  | .cifStateEventIndicators => presentNamed c .stateEventIndicators s
  | .cifDataPayloadFormat => presentNamed c .dataPayloadFormat s
  | .cifGeolocation => presentNamed c .geolocation s

/-- One step of an instance. -/
def stepWith (c : Config) (s : State) : Host.Outcome State Fault Refusal := runPending c (execWith c) s

end Sys2Proof.Machine
end

