-- ==== Sys2Proof/Safety.lean ====
section
/-! DEFINITION. What claims are stated in: the machine's invariant, what a failed operation leaves, which
operation may end in which outcome (R306), where a context field stands, the number a Float denotes, and the
places a host write names. -/

namespace Sys2Proof.Machine

open Sys2Proof

/-- R25, R26, R301: STATUS is its reset value or that of a completed operation: a code from 0 to 4, fatal
exactly for code 3, done set; and ERRINFO is 0 unless the code is an error's. -/
abbrev statusLegal (status : BitVec 5) (errinfo : BitVec 32) : Prop :=
  (status = 0 ∨ status = 0x10 ∨ status = 0x11 ∨ status = 0x12 ∨ status = 0x1B ∨ status = 0x14) ∧
    (statusCode status = 0 → errinfo = 0)

/-- What every step keeps: the four memories in canonical form inside their spaces (R50), the two word counts
in range (R22, R23), STATUS and ERRINFO legal (R25, R26). -/
abbrev State.Inv (s : State) : Prop :=
  s.ibuf.wf 65536 = true ∧ s.obuf.wf 65536 = true ∧ s.rawiq.wf 131072 = true ∧
    s.scaled.wf 131072 = true ∧ s.nIn.toNat ≤ 65536 ∧ s.nOut.toNat ≤ 65536 ∧
    statusLegal s.status s.errinfo

/-- R305: what a decode that failed leaves: the outcome and CUR as given, kind NONE, and everything a decode
does not write unchanged. Of REC, the sample stores and NSAMP nothing is said. -/
def FailedDecode (s t : State) (status : BitVec 5) (errinfo : BitVec 32) (cur : BitVec 17) : Prop :=
  t.record.kind = .none ∧
    t = { s with status := status, errinfo := errinfo, cur := cur, record := t.record,
                 rawiq := t.rawiq, scaled := t.scaled, nsamp := t.nsamp, free := t.free }

/-- R305: what an encode that failed leaves: of OBUF and N_OUT nothing is said. -/
def FailedEncode (s t : State) (status : BitVec 5) (errinfo : BitVec 32) : Prop :=
  t = { s with status := status, errinfo := errinfo, obuf := t.obuf, nOut := t.nOut, free := t.free }

/-- R306: the outcome codes that a command may end in. A packet word's row is not an operation: it may end
only in the error of the walk. -/
def allowedCodes : Instr → List (BitVec 3)
  | .normalize | .toFloat _ _ _ | .packHeader | .packTrailer | .packIndicator => [0]
  | .peek => [0, 3]
  | .decodeData _ _ | .decodeContext _ => [0, 1, 2, 3]
  | .encodeData | .encodeContext | .toFixed _ _ _ => [0, 4]
  | .reservedOp0 | .reservedOpC | .reservedOpD | .reservedOpE | .reservedOpF => []
  | .hdrData _ _ _ | .hdrContext _ _ _ | .iq _ _ | .trlCalibratedTime _ | .trlValidData _
  | .trlReferenceLock _ | .trlOverRange _ | .trlSampleLoss _ | .trlCtxCount _
  | .cifChangeIndicator => []
  | .cifReferencePointId | .cifBandwidth | .cifIfRefFreq | .cifRfRefFreq | .cifRfRefFreqOffset
  | .cifIfBandOffset | .cifReferenceLevel | .cifGain | .cifOverRangeCount | .cifSampleRate
  | .cifTimestampAdjustment | .cifTimestampCalTime | .cifTemperature | .cifDeviceId
  | .cifStateEventIndicators | .cifDataPayloadFormat | .cifGeolocation => [2]

/-- R81: the eleven commands. -/
def isCommand : Instr → Bool
  | .normalize | .peek | .decodeData _ _ | .decodeContext _ | .encodeData | .encodeContext
  | .toFixed _ _ _ | .toFloat _ _ _ | .packHeader | .packTrailer | .packIndicator => true
  | .reservedOp0 | .reservedOpC | .reservedOpD | .reservedOpE | .reservedOpF
  | .hdrData _ _ _ | .hdrContext _ _ _ | .iq _ _ | .trlCalibratedTime _ | .trlValidData _
  | .trlReferenceLock _ | .trlOverRange _ | .trlSampleLoss _ | .trlCtxCount _
  | .cifChangeIndicator | .cifReferencePointId | .cifBandwidth | .cifIfRefFreq | .cifRfRefFreq
  | .cifRfRefFreqOffset | .cifIfBandOffset | .cifReferenceLevel | .cifGain | .cifOverRangeCount
  | .cifSampleRate | .cifTimestampAdjustment | .cifTimestampCalTime | .cifTemperature
  | .cifDeviceId | .cifStateEventIndicators | .cifDataPayloadFormat | .cifGeolocation => false

/-- R93: the eighteen rows of the field table as instructions. -/
def isFieldRow : Instr → Bool
  | .cifChangeIndicator | .cifReferencePointId | .cifBandwidth | .cifIfRefFreq | .cifRfRefFreq
  | .cifRfRefFreqOffset | .cifIfBandOffset | .cifReferenceLevel | .cifGain | .cifOverRangeCount
  | .cifSampleRate | .cifTimestampAdjustment | .cifTimestampCalTime | .cifTemperature
  | .cifDeviceId | .cifStateEventIndicators | .cifDataPayloadFormat | .cifGeolocation => true
  | .normalize | .peek | .decodeData _ _ | .decodeContext _ | .encodeData | .encodeContext
  | .toFixed _ _ _ | .toFloat _ _ _ | .packHeader | .packTrailer | .packIndicator
  | .reservedOp0 | .reservedOpC | .reservedOpD | .reservedOpE | .reservedOpF
  | .hdrData _ _ _ | .hdrContext _ _ _ | .iq _ _ | .trlCalibratedTime _ | .trlValidData _
  | .trlReferenceLock _ | .trlOverRange _ | .trlSampleLoss _ | .trlCtxCount _ => false

/-- R248: how many words the present rows of a list take. -/
def presentWidth (ind : Word) (rows : List FieldRow) : Nat :=
  (rows.map fun r => if ind.getLsbD r.bit then r.dec.width else 0).sum

/-- R244, R248: where the field of row `r` of the default table starts when the indicator word is `ind`. -/
def fieldPos (ind : Word) (r : Nat) : Nat :=
  6 + presentWidth ind (Config.defaultFieldTable.take r)

/-- R256: the geolocation record that eleven words decode to, as binary64. -/
def geoOfWords (w : Nat → Word) : Geo where
  g0                := w 0
  tsInt             := w 1
  tsFrac            := w 2 ++ w 3
  latitude          := toFloat .binary64 (w 4).toInt 22
  longitude         := toFloat .binary64 (w 5).toInt 22
  altitude          := toFloat .binary64 (w 6).toInt 6
  speedOverGround   := toFloat .binary64 (w 7).toInt 16
  headingAngle      := toFloat .binary64 (w 8).toInt 22
  trackAngle        := toFloat .binary64 (w 9).toInt 22
  magneticVariation := toFloat .binary64 (w 10).toInt 22

/-- R250 to R256: the member of a row is present and holds what the row's words `w` decode to, as binary64. -/
def HoldsField (x : ContextRec) (row : FieldRow) (w : Nat → Word) : Prop :=
  match row.dec with
  | .none => x.get row.name = some .flag
  | .raw1 => x.get row.name = some (.word (w 0))
  | .raw2 => x.get row.name = some (.pair (w 0) (w 1))
  | .devid => x.get row.name = some (.pair (w 0) (w 1))
  | .freq => x.get row.name = some (.float (toFloat .binary64 (w 0 ++ w 1).toInt 20))
  | .fx16 frac => x.get row.name = some (.float (toFloat .binary64 ((w 0).extractLsb' 0 16).toInt frac))
  | .geo => x.get row.name = some (.geo (geoOfWords w))

/-- R12: the rational number that a finite Float denotes. -/
def floatValue (fmt : FloatFmt) (x : F64) : ℚ :=
  (if floatSign fmt x then -1 else 1) * (floatMant fmt x : ℚ) * (2 : ℚ) ^ floatScale fmt x

/-- R12 NEAREST_EVEN: `i` is the integer nearest to `r`, the even one on a tie. -/
def NearestEven (r : ℚ) (i : Int) : Prop :=
  |r - i| < 1 / 2 ∨ (|r - i| = 1 / 2 ∧ Even i)

/-- R12 `round_FMT`, where it does not overflow: `x` is finite, no finite Float is nearer to `r`, and on a tie with
another value the significand of `x` is even. -/
def NearestFloat (fmt : FloatFmt) (r : ℝ) (x : F64) : Prop :=
  floatIsFinite fmt x = true ∧
    ∀ y : F64, floatIsFinite fmt y = true →
      |(floatValue fmt x : ℝ) - r| ≤ |(floatValue fmt y : ℝ) - r| ∧
      (floatValue fmt y ≠ floatValue fmt x →
        |(floatValue fmt y : ℝ) - r| = |(floatValue fmt x : ℝ) - r| → x.getLsbD 0 = false)

/-- R149: `y` is what a Float field written as `x` reads back as: the fixed-point integer nearest to `x`,
converted back. -/
def Quantized (frac W : Nat) (x y : F64) : Prop :=
  ∃ i, toFixed .binary64 .nearestEven x frac W = some i ∧ y = toFloat .binary64 i frac

/-- R263: `w` is the value `v` of a row's member after a trip over the wire: words verbatim, Floats to the
resolution of their field. -/
def SameValue : FieldDec → FieldValue → FieldValue → Prop
  | .freq, .float x, .float y => Quantized 20 64 x y
  | .fx16 frac, .float x, .float y => Quantized frac 16 x y
  | .geo, .geo G, .geo H => H.g0 = G.g0 ∧ H.tsInt = G.tsInt ∧ H.tsFrac = G.tsFrac ∧
      Quantized 22 32 G.latitude H.latitude ∧ Quantized 22 32 G.longitude H.longitude ∧
      Quantized 6 32 G.altitude H.altitude ∧ Quantized 16 32 G.speedOverGround H.speedOverGround ∧
      Quantized 22 32 G.headingAngle H.headingAngle ∧ Quantized 22 32 G.trackAngle H.trackAngle ∧
      Quantized 22 32 G.magneticVariation H.magneticVariation
  | _, v, w => w = v

/-- R263: the member of a row in `y` is the one in `x` after a trip over the wire: the same presence, and the same
value. -/
def SameField (x y : ContextRec) (row : FieldRow) : Prop :=
  Option.Rel (SameValue row.dec) (x.member row) (y.member row)

/-- R256: the seven conversions of a geolocation block in their order: the Float and its fractional bits. -/
def geoConversions (G : Geo) : List (F64 × Nat) :=
  [(G.latitude, 22), (G.longitude, 22), (G.altitude, 6), (G.speedOverGround, 16),
   (G.headingAngle, 22), (G.trackAngle, 22), (G.magneticVariation, 22)]

/-- R252, R253, R256, R262: the present member of a row does not convert; `sub` is the number R304 gives the
conversion. A FREQ member of exactly `-2^43` counts as converting: the model's choice (log 21). -/
def RowOverflows (x : ContextRec) (row : FieldRow) (sub : Nat) : Prop :=
  match row.dec with
  | .none | .raw1 | .raw2 | .devid => False
  | .freq => sub = 0 ∧
      ∃ v, x.get row.name = some (.float v) ∧ toFixed .binary64 .nearestEven v 20 64 = none
  | .fx16 frac => sub = 0 ∧
      ∃ v, x.get row.name = some (.float v) ∧ toFixed .binary64 .nearestEven v frac 16 = none
  | .geo => ∃ G, x.get row.name = some (.geo G) ∧
      (∃ v f, (geoConversions G)[sub]? = some (v, f) ∧ toFixed .binary64 .nearestEven v f 32 = none) ∧
      ∀ j v f, j < sub → (geoConversions G)[j]? = some (v, f) →
        toFixed .binary64 .nearestEven v f 32 ≠ none

/-- R96, R149, R250 to R256: the words of a row's field that holds a value: none, the words verbatim, or the
bits of the integers that the Floats convert to, a 64-bit one high word first, a 16-bit one below a half word of
zeros. A FREQ value of exactly `-2^43` has the words of `-2^63`: the model's choice (log 21). -/
def FieldWords : FieldDec → FieldValue → List Word → Prop
  | .none, .flag, ws => ws = []
  | .raw1, .word w, ws => ws = [w]
  | .raw2, .pair w0 w1, ws => ws = [w0, w1]
  | .devid, .pair w0 w1, ws => ws = [w0, w1]
  | .freq, .float x, ws => ∃ i, toFixed .binary64 .nearestEven x 20 64 = some i ∧
      ws = [(BitVec.ofInt 64 i).extractLsb' 32 32, (BitVec.ofInt 64 i).extractLsb' 0 32]
  | .fx16 frac, .float x, ws => ∃ i, toFixed .binary64 .nearestEven x frac 16 = some i ∧
      ws = [(0 : BitVec 16) ++ BitVec.ofInt 16 i]
  | .geo, .geo G, ws => ∃ is : List Int,
      List.Forall₂ (fun p i => toFixed .binary64 .nearestEven p.1 p.2 32 = some i) (geoConversions G) is ∧
      ws = G.g0 :: G.tsInt :: G.tsFrac.extractLsb' 32 32 :: G.tsFrac.extractLsb' 0 32 ::
        is.map (BitVec.ofInt 32)
  | _, _, _ => False

/-- R347, R242: `name` is a member of REC.ctx under the default table, and `v` a value of the type its row gives it
(or its absence). -/
def NamesMember (name : FieldName) (v : Option FieldValue) : Prop :=
  ∃ row ∈ Config.defaultFieldTable, row.name = name ∧ ∀ u, v = some u → row.dec.fits u = true

/-- The place that a host write names: the write with its value taken out. -/
def writeTarget : HostWrite → HostWrite
  | .kind _ => .kind .none
  | .proType _ => .proType 0
  | .proHdrFlags _ => .proHdrFlags 0
  | .proCount _ => .proCount 0
  | .proSize _ => .proSize 0
  | .proStreamId _ => .proStreamId 0
  | .proTsInt _ => .proTsInt 0
  | .proTsFrac _ => .proTsFrac 0
  | .trlPair p _ => .trlPair p none
  | .trlCtxCount _ => .trlCtxCount none
  | .ctxIndicator _ => .ctxIndicator 0
  | .ctxUnknownBits _ => .ctxUnknownBits 0
  | .ctxField name _ => .ctxField name none
  | .rawiq i _ => .rawiq i 0
  | .nsamp _ => .nsamp 0

/-- R347: the place that a host write names holds the write's value. -/
def HoldsWrite (s : State) : HostWrite → Prop
  | .kind v => s.record.kind = v
  | .proType v => s.record.pro.type = v
  | .proHdrFlags v => s.record.pro.hdrFlags = v
  | .proCount v => s.record.pro.count = v
  | .proSize v => s.record.pro.size = v
  | .proStreamId v => s.record.pro.streamId = v
  | .proTsInt v => s.record.pro.tsInt = v
  | .proTsFrac v => s.record.pro.tsFrac = v
  | .trlPair p v => s.record.trl.pair p = v
  | .trlCtxCount v => s.record.trl.ctxCount = v
  | .ctxIndicator v => s.record.ctx.indicator = v
  | .ctxUnknownBits v => s.record.ctx.unknownBits = v
  | .ctxField name v => s.record.ctx.get name = v
  | .rawiq i v => s.rawiqAt i.toNat = v
  | .nsamp v => s.nsamp = v

end Sys2Proof.Machine
end

