-- ==== Sys2Proof/Certificates/Slice0/Obligations.lean ====
section
/-! DEFINITION. The statements for the provers, from the numbered rules of `spec/`. A statement about every
state holds in every state; where it needs the invariant it says so. -/

open Sys2Proof Sys2Proof.Machine

/-! ## The step -/

/-- R346, R13: an accepted command is decoded and run in one step; what the decoder gives is well formed. The list
of the caller's actions is the model's own (log 6). -/
def Obligations.StepRunsFetchedInstruction : Prop :=
  ∀ (s : State) (f : Fetch) (rest : List Action) (i : Instr),
    s.pending = .fetch f :: rest → decode f = .ok i →
      i.wf = true ∧ step s = exec i { s with pending := rest }

/-- R346 item 4, R347: with no action nothing changes; a transport load writes its words (the last write of an
index stands) and N_IN. R347 allows N_IN up to 65536; that a load above it is refused is the model's choice (log 16), and
so is the list of the caller's actions (log 6). -/
def Obligations.TransportLoadWritesInputBuffer : Prop :=
  (∀ s : State, s.pending = [] → step s = .next s) ∧
  (∀ (s : State) (ws : List (BitVec 16 × Word)) (n : BitVec 17) (rest : List Action),
    s.pending = .load ws n :: rest → n.toNat ≤ 65536 →
      ∃ t, step s = .next t ∧ t = { s with pending := rest, ibuf := t.ibuf, nIn := n } ∧
        (∀ pre a v post, ws = pre ++ (a, v) :: post → (∀ p ∈ post, p.1 ≠ a) → t.ibufAt a.toNat = v) ∧
        (∀ a : Nat, (∀ p ∈ ws, p.1.toNat ≠ a) → t.ibufAt a = s.ibufAt a)) ∧
  (∀ (s : State) (ws : List (BitVec 16 × Word)) (n : BitVec 17) (rest : List Action),
    s.pending = .load ws n :: rest → 65536 < n.toNat → step s = .refused .loadPastBuffer)

/-- R347, R38: a host record write changes only REC, RAWIQ and NSAMP; each place it names holds what was last
written to it, and each place it does not name keeps its value. A write to a member of REC.ctx that the default table
does not name (a name of its own, or a value of another type than the row's) is refused: the model's choice (log 17), as
is the list of the caller's actions (log 6). -/
def Obligations.HostRecordWriteChangesOnlyRecordStores : Prop :=
  (∀ (s : State) (ws : List HostWrite) (rest : List Action), s.pending = .hostWrite ws :: rest →
    (∀ name v, .ctxField name v ∈ ws → NamesMember name v) →
    ∃ t, step s = .next t ∧
      t = { s with pending := rest, record := t.record, rawiq := t.rawiq, nsamp := t.nsamp } ∧
      (∀ pre w post, ws = pre ++ w :: post → (∀ u ∈ post, writeTarget u ≠ writeTarget w) →
        HoldsWrite t w) ∧
      (∀ w, (∀ u ∈ ws, writeTarget u ≠ writeTarget w) → HoldsWrite s w → HoldsWrite t w) ∧
      (∀ j : Nat, (∀ i v, .rawiq i v ∈ ws → i.toNat ≠ j) → t.rawiqAt j = s.rawiqAt j)) ∧
  (∀ (s : State) (ws : List HostWrite) (rest : List Action), s.pending = .hostWrite ws :: rest →
    (∃ name v, .ctxField name v ∈ ws ∧ ¬ NamesMember name v) → step s = .refused .notAMember)

/-- R39, R341: every value the spec states for reset, at `State.reset` and after `rst`. Nothing is said of what
R39 calls unspecified. -/
def Obligations.ResetLeavesNoPacketNoRecordNoError : Prop :=
  (State.reset.nIn = 0 ∧ State.reset.nOut = 0 ∧ State.reset.cur = 0 ∧ State.reset.status = 0 ∧
    State.reset.errinfo = 0 ∧ State.reset.ptype = .invalid ∧ State.reset.pcode = 0 ∧
    State.reset.psize = 0 ∧ State.reset.record.kind = .none ∧ State.reset.nsamp = 0) ∧
  ∀ (s : State) (rest : List Action), s.pending = .reset :: rest →
    ∃ t, step s = .next t ∧ t.nIn = 0 ∧ t.nOut = 0 ∧ t.cur = 0 ∧ t.status = 0 ∧ t.errinfo = 0 ∧
      t.ptype = .invalid ∧ t.pcode = 0 ∧ t.psize = 0 ∧ t.record.kind = .none ∧ t.nsamp = 0 ∧
      t.pending = rest

/-- R82: the reserved selectors and the reserved width code have no step. -/
def Obligations.ReservedEncodingsAreRefused : Prop :=
  (∀ s : State,
    exec .reservedOp0 s = .refused (.reservedCommand 0x0) ∧
    exec .reservedOpC s = .refused (.reservedCommand 0xC) ∧
    exec .reservedOpD s = .refused (.reservedCommand 0xD) ∧
    exec .reservedOpE s = .refused (.reservedCommand 0xE) ∧
    exec .reservedOpF s = .refused (.reservedCommand 0xF)) ∧
  (∀ (s : State) (x : F64) (n : BitVec 64) (frac : BitVec 6),
    exec (.toFixed x frac 3) s = .refused .reservedWidth ∧
    exec (.toFloat n frac 3) s = .refused .reservedWidth) ∧
  (∀ (s : State) (c : Cmd) (rest : List Action), s.pending = .fetch (.command c) :: rest →
    (c.op = 0x0 ∨ c.op = 0xC ∨ c.op = 0xD ∨ c.op = 0xE ∨ c.op = 0xF →
      step s = .refused (.reservedCommand c.op)) ∧
    ((c.op = 0x7 ∨ c.op = 0x8) ∧ c.width = 3 → step s = .refused .reservedWidth))

/-! ## Byte order -/

/-- R121, R122: the word function and its law, word by word and buffer by buffer. -/
def Obligations.NormIsItsOwnInverse : Prop :=
  (∀ (c : Config) (w : Word), normWord c w =
    if c.hostBigEndian then w
    else w.extractLsb' 0 8 ++ w.extractLsb' 8 8 ++ w.extractLsb' 16 8 ++ w.extractLsb' 24 8) ∧
  (∀ (c : Config) (w : Word), normWord c (normWord c w) = w) ∧
  (∀ (c : Config) (b : List Word), (b.map (normWord c)).map (normWord c) = b)

/-- R51: on either host, the normalized word of the raw word of four wire bytes is their big-endian value. -/
def Obligations.NormalizedWordIsWireValue : Prop :=
  ∀ (c : Config) (b0 b1 b2 b3 : BitVec 8),
    normWord c (if c.hostBigEndian then b0 ++ b1 ++ b2 ++ b3 else b3 ++ b2 ++ b1 ++ b0) =
      b0 ++ b1 ++ b2 ++ b3 ∧
    (normWord c (rawOfWire c b0 b1 b2 b3)).toNat =
      b0.toNat * 2 ^ 24 + b1.toNat * 2 ^ 16 + b2.toNat * 2 ^ 8 + b3.toNat

/-- R123: NORMALIZE always completes: OBUF below N_IN, N_OUT, STATUS and ERRINFO are written and nothing else;
a second NORMALIZE of the output gives the input back. -/
def Obligations.NormalizeConvertsWholeBuffer : Prop :=
  (∀ s : State, ∃ t, exec .normalize s = .next t ∧
    (∀ k, k < s.nIn.toNat → t.obufAt k = normWord Config.phpc (s.ibufAt k)) ∧
    (∀ k, s.nIn.toNat ≤ k → t.obufAt k = s.obufAt k) ∧
    t = { s with obuf := t.obuf, nOut := s.nIn, status := 0x10, errinfo := 0 }) ∧
  (∀ s t s' t' : State, exec .normalize s = .next t → s'.nIn = t.nOut →
    (∀ k, k < t.nOut.toNat → s'.ibufAt k = t.obufAt k) → exec .normalize s' = .next t' →
      t'.nOut = s.nIn ∧ ∀ k, k < s.nIn.toNat → t'.obufAt k = s.ibufAt k)

/-! ## PEEK and the header word -/

/-- R175: PEEK always completes: with a word supplied it writes PTYPE, PCODE, PSIZE and the OK outcome and nothing
else; with none it ends in E_SIZE_IMPLAUSIBLE, of PTYPE, PCODE and PSIZE nothing being said. -/
def Obligations.PeekClassifiesFirstWord : Prop :=
  (∀ (s : State) (w : Word), s.nIn ≠ 0 → w = normWord Config.phpc (s.ibufAt 0) →
    exec .peek s = .next { s with
      pcode := w.extractLsb' 28 4
      psize := w.extractLsb' 0 16
      ptype := if w.extractLsb' 28 4 = 1 then .data
               else if w.extractLsb' 28 4 = 4 then .context else .invalid
      status := 0x10
      errinfo := 0 }) ∧
  (∀ s : State, s.nIn = 0 → ∃ t, exec .peek s = .next t ∧
    t = { s with ptype := t.ptype, pcode := t.pcode, psize := t.psize, status := 0x1B,
                 errinfo := 0x00010000, free := t.free })

/-- R176: PEEK's results depend on IBUF[0] alone. -/
def Obligations.PeekReadsOnlyFirstWord : Prop :=
  ∀ s s' t t' : State, s.nIn ≠ 0 → s'.nIn ≠ 0 → s.ibufAt 0 = s'.ibufAt 0 →
    exec .peek s = .next t → exec .peek s' = .next t' →
      t.ptype = t'.ptype ∧ t.pcode = t'.pcode ∧ t.psize = t'.psize

/-- R181: the header pair is an exact bijection. -/
def Obligations.HeaderPackUnpackBijection : Prop :=
  (∀ w : Word, packHeaderWord Config.phpc (headerType Config.phpc w) (headerFlags Config.phpc w)
    (headerCount Config.phpc w) (headerSize Config.phpc w) = w) ∧
  (∀ (type : BitVec 4) (flags : BitVec 8) (count : BitVec 4) (size : BitVec 16),
    headerType Config.phpc (packHeaderWord Config.phpc type flags count size) = type ∧
    headerFlags Config.phpc (packHeaderWord Config.phpc type flags count size) = flags ∧
    headerCount Config.phpc (packHeaderWord Config.phpc type flags count size) = count ∧
    headerSize Config.phpc (packHeaderWord Config.phpc type flags count size) = size)

/-- R180: PACK_HEADER always completes with the four members side by side in PACKOUT. -/
def Obligations.PackHeaderJoinsFourMembers : Prop :=
  ∀ s : State, exec .packHeader s = .next { s with
    packout := s.record.pro.type ++ s.record.pro.hdrFlags ++ s.record.pro.count ++ s.record.pro.size
    status := 0x10
    errinfo := 0 }

/-- R84, as the rows HDR.DATA and HDR.CONTEXT run (the model's choice, log 8): the PEEK results of a header
word of that type, nothing else changed. -/
def Obligations.HeaderRowsClassify : Prop :=
  ∀ (s : State) (flags : BitVec 8) (count : BitVec 4) (size : BitVec 16),
    exec (.hdrData flags count size) s =
      .next { s with ptype := .data, pcode := 1, psize := size } ∧
    exec (.hdrContext flags count size) s =
      .next { s with ptype := .context, pcode := 4, psize := size }

/-- R182: DECODE_AUTO is PEEK and then, with the state PEEK leaves, DECODE_CONTEXT for a packet of type code 4 and
DECODE_DATA for one of type code 1, each with S = PSIZE; for a packet of unknown type the fatal outcome if its size
field is implausible, else the recoverable one; and with no word supplied PEEK's own outcome. -/
def Obligations.DecodeAutoSeparatesFatalFromRecoverable : Prop :=
  (∀ (s : State) (ref : F64) (w : Word), s.nIn ≠ 0 → w = normWord Config.phpc (s.ibufAt 0) →
    ∃ t, exec .peek s = .next t ∧ t.psize = w.extractLsb' 0 16 ∧
      (w.extractLsb' 28 4 = 4 → t.ptype = .context ∧
        decodeAuto ref s = exec (.decodeContext (w.extractLsb' 0 16)) t) ∧
      (w.extractLsb' 28 4 = 1 → t.ptype = .data ∧
        decodeAuto ref s = exec (.decodeData (w.extractLsb' 0 16) ref) t)) ∧
  (∀ (s : State) (ref : F64) (w : Word), s.nIn ≠ 0 → w = normWord Config.phpc (s.ibufAt 0) →
    w.extractLsb' 28 4 ≠ 1 → w.extractLsb' 28 4 ≠ 4 →
      ∃ t, decodeAuto ref s = .next t ∧ t.ptype = .invalid ∧ t.psize = w.extractLsb' 0 16 ∧
        t.record.kind = .none ∧
        (if (w.extractLsb' 0 16).toNat < 5 ∨ s.nIn.toNat < (w.extractLsb' 0 16).toNat
         then t.status = 0x1B else t.status = 0x11)) ∧
  (∀ (s : State) (ref : F64), s.nIn = 0 → ∃ t, decodeAuto ref s = .next t ∧ t.status = 0x1B ∧
    t.errinfo = 0x00010000 ∧ t.cur = s.cur)

/-! ## The entry checks and the error outcome -/

/-- R310: both decoders, in the order of the checks; each failure is the error outcome of R305 with the fields of
R304. -/
def Obligations.DecodersCheckEntryInOrder : Prop :=
  ∀ (s : State) (S : BitVec 16) (w0 : Word), w0 = normWord Config.phpc (s.ibufAt 0) →
    (∀ ref : F64, ∃ t, exec (.decodeData S ref) s = .next t ∧
      (S.toNat < 5 → FailedDecode s t 0x1B (S.setWidth 32) 0) ∧
      (5 ≤ S.toNat → s.nIn.toNat < S.toNat → FailedDecode s t 0x1B (S.setWidth 32 + 0x10000) 0) ∧
      (5 ≤ S.toNat → S.toNat ≤ s.nIn.toNat → w0.extractLsb' 28 4 ≠ 1 →
        FailedDecode s t 0x11 ((w0.extractLsb' 28 4).setWidth 32 + 0x10) 0) ∧
      (S.toNat = 5 → 5 ≤ s.nIn.toNat → w0.extractLsb' 28 4 = 1 → FailedDecode s t 0x12 0x143E 5) ∧
      (6 ≤ S.toNat → S.toNat ≤ s.nIn.toNat → w0.extractLsb' 28 4 = 1 → t.status = 0x10)) ∧
    (∃ t, exec (.decodeContext S) s = .next t ∧
      (S.toNat < 5 → FailedDecode s t 0x1B (S.setWidth 32) 0) ∧
      (5 ≤ S.toNat → s.nIn.toNat < S.toNat → FailedDecode s t 0x1B (S.setWidth 32 + 0x10000) 0) ∧
      (5 ≤ S.toNat → S.toNat ≤ s.nIn.toNat → w0.extractLsb' 28 4 ≠ 4 →
        FailedDecode s t 0x11 ((w0.extractLsb' 28 4).setWidth 32 + 0x20) 0) ∧
      (S.toNat = 5 → 5 ≤ s.nIn.toNat → w0.extractLsb' 28 4 = 4 → FailedDecode s t 0x12 0x143E 5) ∧
      (6 ≤ S.toNat → S.toNat ≤ s.nIn.toNat → w0.extractLsb' 28 4 = 4 →
        t.status = 0x10 ∨ statusCode t.status = 2))

/-- R305: a failed decode leaves IBUF and N_IN alone, so the same command issued again gives the same outcome. -/
def Obligations.FailedDecodeRepeats : Prop :=
  ∀ (i : Instr) (s t : State), (∃ S ref, i = .decodeData S ref) ∨ (∃ S, i = .decodeContext S) →
    exec i s = .next t → statusCode t.status ≠ 0 →
      ∃ t', exec i t = .next t' ∧ t'.status = t.status ∧ t'.errinfo = t.errinfo ∧ t'.cur = t.cur ∧
        t'.record.kind = .none

/-- R301, R328: every command completes (an ENCODE_DATA with an even NSAMP), with `done` set and `fatal` set
exactly for code 3. -/
def Obligations.EveryCommandCompletes : Prop :=
  ∀ (i : Instr) (s : State), isCommand i = true → i.wf = true →
    (i = .encodeData → s.nsamp.toNat % 2 = 0) →
      ∃ t, exec i s = .next t ∧ statusDone t.status = true ∧
        (statusFatal t.status = true ↔ statusCode t.status = 3)

/-- R306: which operation can end in which outcome. That a packet word's row, which is no operation of R81, leaves
STATUS alone unless the walk's error ends it is the model's choice (log 8). -/
def Obligations.OutcomeCodesAreThoseOfTheTable : Prop :=
  ∀ (i : Instr) (s t : State), exec i s = .next t →
    (isCommand i = true → statusCode t.status ∈ allowedCodes i) ∧
    (isCommand i = false → t.status = s.status ∨ statusCode t.status ∈ allowedCodes i)

/-! ## Data packets -/

/-- R201, R202, R205: a data packet that passes the entry checks. -/
def Obligations.DecodeDataExtractsPacket : Prop :=
  ∀ (s : State) (S : BitVec 16) (ref : F64) (w0 : Word), w0 = normWord Config.phpc (s.ibufAt 0) →
    6 ≤ S.toNat → S.toNat ≤ s.nIn.toNat → w0.extractLsb' 28 4 = 1 →
      ∃ t, exec (.decodeData S ref) s = .next t ∧
        (∀ k, k < S.toNat - 6 →
          t.rawiqAt (2 * k) = (normWord Config.phpc (s.ibufAt (5 + k))).extractLsb' 16 16 ∧
          t.rawiqAt (2 * k + 1) = (normWord Config.phpc (s.ibufAt (5 + k))).extractLsb' 0 16) ∧
        (∀ j, j < 2 * (S.toNat - 6) →
          t.scaledAt j = scaleSample .binary64 (t.rawiqAt j) (Config.phpc.refScale ref)) ∧
        (∀ j, 2 * (S.toNat - 6) ≤ j → t.rawiqAt j = s.rawiqAt j ∧ t.scaledAt j = s.scaledAt j) ∧
        t.nsamp.toNat = 2 * (S.toNat - 6) ∧ t.cur.toNat = S.toNat ∧
        t.record.pro =
          { type := w0.extractLsb' 28 4, hdrFlags := w0.extractLsb' 20 8,
            count := w0.extractLsb' 16 4, size := w0.extractLsb' 0 16,
            streamId := normWord Config.phpc (s.ibufAt 1), tsInt := normWord Config.phpc (s.ibufAt 2),
            tsFrac := normWord Config.phpc (s.ibufAt 3) ++ normWord Config.phpc (s.ibufAt 4) } ∧
        t.record.trl = decodeTrailer Config.phpc (normWord Config.phpc (s.ibufAt (S.toNat - 1))) ∧
        t = { s with record := { s.record with kind := .data, pro := t.record.pro, trl := t.record.trl }
                     rawiq := t.rawiq
                     scaled := t.scaled
                     nsamp := t.nsamp
                     cur := t.cur
                     status := 0x10
                     errinfo := 0 }

/-- R205: a sample scaled by a finite factor is the Float nearest to `raw / 2^15` times the factor, ties to even
(the magnitude is at most the factor's, so it cannot overflow), exactly `raw / 2^15` for the factor 1.0; a factor
that is a NaN, or an infinity with a zero sample, gives a NaN; an infinity with any other sample gives the infinity
of the product's sign. Nothing is said of the sign of a zero, which no rule depends on (U13). -/
def Obligations.ScaleSampleExactAndSpecial : Prop :=
  (∀ (raw : Sample) (g : F64), floatIsFinite .binary64 g = true →
    NearestFloat .binary64 ((raw.toInt : ℝ) / 2 ^ 15 * (floatValue .binary64 g : ℝ))
      (scaleSample .binary64 raw g)) ∧
  (∀ raw : Sample, floatIsFinite .binary64 (scaleSample .binary64 raw 0x3FF0000000000000) = true ∧
    floatValue .binary64 (scaleSample .binary64 raw 0x3FF0000000000000) = (raw.toInt : ℚ) / 2 ^ 15) ∧
  (∀ (raw : Sample) (g : F64), floatIsNan .binary64 g = true →
    floatIsNan .binary64 (scaleSample .binary64 raw g) = true) ∧
  (∀ g : F64, floatIsInf .binary64 g = true → floatIsNan .binary64 (scaleSample .binary64 0 g) = true) ∧
  (∀ (raw : Sample) (g : F64), raw ≠ 0 → floatIsInf .binary64 g = true →
    floatIsInf .binary64 (scaleSample .binary64 raw g) = true ∧
    (scaleSample .binary64 raw g).getLsbD 63 = (decide (raw.toInt < 0) ^^ g.getLsbD 63))

/-- R211, with the rows of R210: each pair and the count, gated by its enable bit. -/
def Obligations.TrailerMembersAreGated : Prop :=
  ∀ t : Word,
    (decodeTrailer Config.phpc t).calibratedTime = (if t.getLsbD 31 then some (t.getLsbD 19) else none) ∧
    (decodeTrailer Config.phpc t).validData = (if t.getLsbD 30 then some (t.getLsbD 18) else none) ∧
    (decodeTrailer Config.phpc t).referenceLock = (if t.getLsbD 29 then some (t.getLsbD 17) else none) ∧
    (decodeTrailer Config.phpc t).overRange = (if t.getLsbD 25 then some (t.getLsbD 13) else none) ∧
    (decodeTrailer Config.phpc t).sampleLoss = (if t.getLsbD 24 then some (t.getLsbD 12) else none) ∧
    (decodeTrailer Config.phpc t).ctxCount = (if t.getLsbD 7 then some (t.extractLsb' 0 6) else none)

/-- R216: decode after pack is the identity, for any table of five pairs that R210 allows; pack after decode keeps
exactly the bits that decode does not ignore. -/
def Obligations.TrailerPackDecodePair : Prop :=
  (∀ (c : Config) (r : Trailer), trailerPairsOk c.trailerPairs = true → c.trailerCountLsb ≤ 1 →
    decodeTrailer c (packTrailerWord c r) = r) ∧
  (∀ (t : Word) (b : Nat), b < 32 →
    (packTrailerWord Config.phpc (decodeTrailer Config.phpc t)).getLsbD b =
      (t.getLsbD b && (b ∈ [31, 30, 29, 25, 24, 7] ||
        (b ∈ [19, 18, 17, 13, 12] && t.getLsbD (b + 12)) || (b ≤ 5 && t.getLsbD 7))))

/-- R215: PACK_TRAILER always completes; the bits of PACKOUT are those of the members. -/
def Obligations.PackTrailerSetsMemberBits : Prop :=
  ∀ s : State, ∃ w : Word,
    exec .packTrailer s = .next { s with packout := w, status := 0x10, errinfo := 0 } ∧
    (∀ (p : TrailerName) (e i : Nat), ⟨p, e, i⟩ ∈ Config.defaultTrailerPairs →
      w.getLsbD e = (s.record.trl.pair p).isSome ∧ w.getLsbD i = (s.record.trl.pair p == some true)) ∧
    w.getLsbD 7 = s.record.trl.ctxCount.isSome ∧
    w.extractLsb' 0 6 = s.record.trl.ctxCount.getD 0 ∧
    (∀ b, b ∈ [28, 27, 26, 23, 22, 21, 20, 16, 15, 14, 11, 10, 9, 8, 6] → w.getLsbD b = false)

/-- R220: ENCODE_DATA: the packet's words in OBUF in raw form, the size error, and the refusal of an odd NSAMP
(U8). -/
def Obligations.EncodeDataBuildsPacket : Prop :=
  (∀ s : State, s.nsamp.toNat % 2 = 0 → 6 + s.nsamp.toNat / 2 ≤ 65535 →
    ∃ t, exec .encodeData s = .next t ∧
      t.obufAt 0 = normWord Config.phpc ((1 : BitVec 4) ++ s.record.pro.hdrFlags ++ s.record.pro.count ++
        BitVec.ofNat 16 (6 + s.nsamp.toNat / 2)) ∧
      t.obufAt 1 = normWord Config.phpc s.record.pro.streamId ∧
      t.obufAt 2 = normWord Config.phpc s.record.pro.tsInt ∧
      t.obufAt 3 = normWord Config.phpc (s.record.pro.tsFrac.extractLsb' 32 32) ∧
      t.obufAt 4 = normWord Config.phpc (s.record.pro.tsFrac.extractLsb' 0 32) ∧
      (∀ k, k < s.nsamp.toNat / 2 →
        t.obufAt (5 + k) = normWord Config.phpc (s.rawiqAt (2 * k) ++ s.rawiqAt (2 * k + 1))) ∧
      t.obufAt (5 + s.nsamp.toNat / 2) =
        normWord Config.phpc (packTrailerWord Config.phpc s.record.trl) ∧
      (∀ a, 6 + s.nsamp.toNat / 2 ≤ a → t.obufAt a = s.obufAt a) ∧
      t.nOut.toNat = 6 + s.nsamp.toNat / 2 ∧
      t = { s with obuf := t.obuf, nOut := t.nOut, status := 0x10, errinfo := 0 }) ∧
  (∀ s : State, s.nsamp.toNat % 2 = 0 → 65535 < 6 + s.nsamp.toNat / 2 →
    ∃ t, exec .encodeData s = .next t ∧ FailedEncode s t 0x14 0x3C) ∧
  (∀ s : State, s.nsamp.toNat % 2 = 1 → exec .encodeData s = .refused .oddSampleCount)

/-- R221: ENCODE_DATA, then the transport copies OBUF into IBUF, then DECODE_DATA with any reference level, gives
back prologue, raw payload and trailer. -/
def Obligations.DataPacketRoundTrip : Prop :=
  ∀ (s t s' : State) (ref : F64), s.nsamp.toNat % 2 = 0 → s.nsamp.toNat ≤ 131058 →
    exec .encodeData s = .next t → s'.nIn = t.nOut →
    (∀ k, k < t.nOut.toNat → s'.ibufAt k = t.obufAt k) →
      ∃ t', exec (.decodeData (t.nOut.setWidth 16) ref) s' = .next t' ∧ t'.status = 0x10 ∧
        t'.record.kind = .data ∧
        t'.record.pro =
          { s.record.pro with type := 1, size := BitVec.ofNat 16 (6 + s.nsamp.toNat / 2) } ∧
        t'.nsamp = s.nsamp ∧ (∀ j, j < s.nsamp.toNat → t'.rawiqAt j = s.rawiqAt j) ∧
        t'.record.trl = s.record.trl ∧ t'.cur = t.nOut

/-- R202, as the row IQ runs (the model's choice, log 10): the pair becomes the next two entries of RAWIQ; past
the last entry of the store (R50) the machine stops. -/
def Obligations.PayloadWordRowAppendsPair : Prop :=
  (∀ (s : State) (i q : Sample), s.nsamp.toNat + 2 ≤ 131072 →
    ∃ t, exec (.iq i q) s = .next t ∧ t.rawiqAt s.nsamp.toNat = i ∧
      t.rawiqAt (s.nsamp.toNat + 1) = q ∧
      (∀ j, j ≠ s.nsamp.toNat → j ≠ s.nsamp.toNat + 1 → t.rawiqAt j = s.rawiqAt j) ∧
      t = { s with rawiq := t.rawiq, nsamp := s.nsamp + 2 }) ∧
  (∀ (s : State) (i q : Sample), 131072 < s.nsamp.toNat + 2 →
    exec (.iq i q) s = .fault .sampleStoreEnd)

/-- R211, as the six trailer rows run (the model's choice, log 8): the row's member becomes present with the
word's value, nothing else changed. -/
def Obligations.TrailerRowsSetOneMember : Prop :=
  (∀ (s : State) (b : Bool),
    exec (.trlCalibratedTime b) s = .next { s with record := { s.record with trl :=
      { s.record.trl with calibratedTime := some b } } } ∧
    exec (.trlValidData b) s = .next { s with record := { s.record with trl :=
      { s.record.trl with validData := some b } } } ∧
    exec (.trlReferenceLock b) s = .next { s with record := { s.record with trl :=
      { s.record.trl with referenceLock := some b } } } ∧
    exec (.trlOverRange b) s = .next { s with record := { s.record with trl :=
      { s.record.trl with overRange := some b } } } ∧
    exec (.trlSampleLoss b) s = .next { s with record := { s.record with trl :=
      { s.record.trl with sampleLoss := some b } } }) ∧
  (∀ (s : State) (n : BitVec 6),
    exec (.trlCtxCount n) s = .next { s with record := { s.record with trl :=
      { s.record.trl with ctxCount := some n } } })

/-! ## Context packets -/

/-- R242: the rows of the default table, each member, bit and decode function with its fractional bits written out,
and their widths. R244, R248: a context packet whose present fields fit in S: every member, where its words stand,
the final cursor, and the frame. -/
def Obligations.DecodeContextExtractsPresentFields : Prop :=
  Config.defaultFieldTable =
    [⟨.changeIndicator, 31, .none⟩, ⟨.referencePointId, 30, .raw1⟩, ⟨.bandwidth, 29, .freq⟩,
     ⟨.ifRefFreq, 28, .freq⟩, ⟨.rfRefFreq, 27, .freq⟩, ⟨.rfRefFreqOffset, 26, .freq⟩,
     ⟨.ifBandOffset, 25, .freq⟩, ⟨.referenceLevel, 24, .fx16 7⟩, ⟨.gain, 23, .fx16 7⟩,
     ⟨.overRangeCount, 22, .raw1⟩, ⟨.sampleRate, 21, .freq⟩, ⟨.timestampAdjustment, 20, .raw2⟩,
     ⟨.timestampCalTime, 19, .raw1⟩, ⟨.temperature, 18, .fx16 6⟩, ⟨.deviceId, 17, .devid⟩,
     ⟨.stateEventIndicators, 16, .raw1⟩, ⟨.dataPayloadFormat, 15, .raw2⟩, ⟨.geolocation, 14, .geo⟩] ∧
  Config.phpc.fieldTable = Config.defaultFieldTable ∧
  Config.defaultFieldTable.map (·.dec.width) = [0, 1, 2, 2, 2, 2, 2, 1, 1, 1, 2, 2, 1, 1, 2, 1, 2, 11] ∧
  ∀ (s : State) (S : BitVec 16) (w0 ind : Word), w0 = normWord Config.phpc (s.ibufAt 0) →
    ind = normWord Config.phpc (s.ibufAt 5) → 6 ≤ S.toNat → S.toNat ≤ s.nIn.toNat →
    w0.extractLsb' 28 4 = 4 → fieldPos ind 18 ≤ S.toNat →
      ∃ t, exec (.decodeContext S) s = .next t ∧
        (∀ r row, Config.defaultFieldTable[r]? = some row →
          (ind.getLsbD row.bit = true → HoldsField t.record.ctx row fun k =>
            normWord Config.phpc (s.ibufAt (fieldPos ind r + k))) ∧
          (ind.getLsbD row.bit = false → t.record.ctx.get row.name = none)) ∧
        t.record.ctx.indicator = ind ∧ t.record.ctx.unknownBits = ind &&& 0x3FFF ∧
        t.cur.toNat = fieldPos ind 18 ∧
        t.record.pro =
          { type := w0.extractLsb' 28 4, hdrFlags := w0.extractLsb' 20 8,
            count := w0.extractLsb' 16 4, size := w0.extractLsb' 0 16,
            streamId := normWord Config.phpc (s.ibufAt 1), tsInt := normWord Config.phpc (s.ibufAt 2),
            tsFrac := normWord Config.phpc (s.ibufAt 3) ++ normWord Config.phpc (s.ibufAt 4) } ∧
        t = { s with
          record := { s.record with kind := .context, pro := t.record.pro, ctx := t.record.ctx }
          cur := t.cur
          status := 0x10
          errinfo := 0 }

/-- R244, R311: the walk ends at the first present row in table order whose words would pass S, with that row's
number and the cursor before the read. -/
def Obligations.DecodeContextStopsAtFirstTruncatedField : Prop :=
  ∀ (s : State) (S : BitVec 16) (ind : Word) (r : Nat) (row : FieldRow),
    ind = normWord Config.phpc (s.ibufAt 5) → 6 ≤ S.toNat → S.toNat ≤ s.nIn.toNat →
    (normWord Config.phpc (s.ibufAt 0)).extractLsb' 28 4 = 4 →
    Config.defaultFieldTable[r]? = some row → ind.getLsbD row.bit = true → 0 < row.dec.width →
    fieldPos ind r ≤ S.toNat → S.toNat < fieldPos ind r + row.dec.width →
      ∃ t, exec (.decodeContext S) s = .next t ∧
        FailedDecode s t 0x12 (BitVec.ofNat 32 (r + 1024 * fieldPos ind r))
          (BitVec.ofNat 17 (fieldPos ind r))

/-- R245: with GEO_SKIP_WHEN_ABSENT the default table's walk fails alike and decodes alike; only the final cursor
of a packet without geolocation is 11 further. -/
def Obligations.GeoSkipMovesOnlyTheCursor : Prop :=
  ∀ (s : State) (S : BitVec 16),
    match walkPacket Config.phpc S s with
    | .error e => walkPacket { Config.phpc with geoSkipWhenAbsent := true } S s = .error e
    | .ok (x, cur) => walkPacket { Config.phpc with geoSkipWhenAbsent := true } S s =
        .ok (x, if (normWord Config.phpc (s.ibufAt 5)).getLsbD 14 then cur else cur + 11)

/-- R261, for every table that R241 allows: packing the presence flags and reading the indicator bits undo each
other; with the default table the bits are those of the mask 0xFFFFC000 (R242). -/
def Obligations.IndicatorAndPresenceAgree : Prop :=
  (∀ (c : Config) (x : ContextRec) (row : FieldRow), fieldTableOk c.fieldTable = true → row ∈ c.fieldTable →
    (packIndicatorWord c x).getLsbD row.bit = x.present row) ∧
  (∀ (c : Config) (ind : Word) (x : ContextRec), fieldTableOk c.fieldTable = true →
    (∀ row ∈ c.fieldTable, x.present row = ind.getLsbD row.bit) →
      packIndicatorWord c x = ind &&& c.tableMask) ∧
  Config.phpc.tableMask = 0xFFFFC000

/-- R260: PACK_INDICATOR always completes; PACKOUT has the bit of each present member and no other. -/
def Obligations.PackIndicatorSetsPresenceBits : Prop :=
  ∀ s : State, ∃ w : Word,
    exec .packIndicator s = .next { s with packout := w, status := 0x10, errinfo := 0 } ∧
    (∀ row ∈ Config.defaultFieldTable, w.getLsbD row.bit = s.record.ctx.present row) ∧
    (∀ b, b < 14 → w.getLsbD b = false)

/-- R262: ENCODE_CONTEXT of a record whose present Floats all convert: the words of the packet in OBUF, those of each
present row, written out by R96, R149 and R250 to R256, at the row's place in table order, and none for an absent
row. That a FREQ member of exactly `-2^43` converts, to `-2^63`, is the model's choice (log 21): R252's prose says that
`enc` raises at `2^43` and beyond, its formula encodes this value. -/
def Obligations.EncodeContextBuildsPacket : Prop :=
  ∀ (s : State) (ind : Word), ind = packIndicatorWord Config.phpc s.record.ctx →
    (∀ row ∈ Config.defaultFieldTable, ∀ sub, ¬ RowOverflows s.record.ctx row sub) →
      ∃ t, exec .encodeContext s = .next t ∧ t.nOut.toNat = fieldPos ind 18 ∧
        t.obufAt 0 = normWord Config.phpc ((4 : BitVec 4) ++ s.record.pro.hdrFlags ++ s.record.pro.count ++
          BitVec.ofNat 16 (fieldPos ind 18)) ∧
        t.obufAt 1 = normWord Config.phpc s.record.pro.streamId ∧
        t.obufAt 2 = normWord Config.phpc s.record.pro.tsInt ∧
        t.obufAt 3 = normWord Config.phpc (s.record.pro.tsFrac.extractLsb' 32 32) ∧
        t.obufAt 4 = normWord Config.phpc (s.record.pro.tsFrac.extractLsb' 0 32) ∧
        t.obufAt 5 = normWord Config.phpc ind ∧
        (∀ r row, Config.defaultFieldTable[r]? = some row →
          ind.getLsbD row.bit = (s.record.ctx.member row).isSome ∧
          ∀ v, s.record.ctx.member row = some v →
            ∃ ws, FieldWords row.dec v ws ∧ ws.length = row.dec.width ∧
              ∀ k w, ws[k]? = some w → t.obufAt (fieldPos ind r + k) = normWord Config.phpc w) ∧
        (∀ a, fieldPos ind 18 ≤ a → t.obufAt a = s.obufAt a) ∧
        t = { s with obuf := t.obuf, nOut := t.nOut, status := 0x10, errinfo := 0 }

/-- R262, R311: ENCODE_CONTEXT ends at the first row in table order whose value does not convert, and inside the
geolocation row at its first conversion that does not. That a FREQ member of exactly `-2^43` converts, so that the
error is never that row's for this value, is the model's choice (log 21): R252's prose says that `enc` raises at `2^43`
and beyond, its formula encodes this value. -/
def Obligations.EncodeContextStopsAtFirstOverflow : Prop :=
  ∀ (s : State) (r sub : Nat) (row : FieldRow), Config.defaultFieldTable[r]? = some row →
    RowOverflows s.record.ctx row sub →
    (∀ q row', q < r → Config.defaultFieldTable[q]? = some row' →
      ∀ sub', ¬ RowOverflows s.record.ctx row' sub') →
      ∃ t, exec .encodeContext s = .next t ∧ FailedEncode s t 0x14 (BitVec.ofNat 32 (r + 64 * sub))

/-- R263: ENCODE_CONTEXT, then the transport copies OBUF into IBUF, then DECODE_CONTEXT, gives back every presence
flag, every verbatim word, and every Float to the resolution of its field. -/
def Obligations.ContextPacketRoundTrip : Prop :=
  ∀ s t s' : State, exec .encodeContext s = .next t → statusCode t.status = 0 → s'.nIn = t.nOut →
    (∀ k, k < t.nOut.toNat → s'.ibufAt k = t.obufAt k) →
      ∃ t', exec (.decodeContext (t.nOut.setWidth 16)) s' = .next t' ∧ t'.status = 0x10 ∧
        t'.record.kind = .context ∧
        (∀ row ∈ Config.defaultFieldTable, SameField s.record.ctx t'.record.ctx row) ∧
        t'.record.ctx.indicator = packIndicatorWord Config.phpc s.record.ctx ∧
        t'.record.ctx.unknownBits = 0 ∧
        t'.record.pro = { s.record.pro with type := 4, size := t.nOut.setWidth 16 } ∧
        t'.cur = t.nOut

/-- R251, as the four RAW1 rows run at CUR (the model's choice, log 10): one verbatim word. -/
def Obligations.OneWordRowsReadAtCursor : Prop :=
  ∀ (s : State) (w : Word), s.cur.toNat + 1 ≤ s.nIn.toNat →
    w = normWord Config.phpc (s.ibufAt s.cur.toNat) →
    exec .cifReferencePointId s = .next { s with cur := s.cur + 1, record := { s.record with ctx :=
      (s.record.ctx.set .referencePointId (some (.word w))) } } ∧
    exec .cifOverRangeCount s = .next { s with cur := s.cur + 1, record := { s.record with ctx :=
      (s.record.ctx.set .overRangeCount (some (.word w))) } } ∧
    exec .cifTimestampCalTime s = .next { s with cur := s.cur + 1, record := { s.record with ctx :=
      (s.record.ctx.set .timestampCalTime (some (.word w))) } } ∧
    exec .cifStateEventIndicators s = .next { s with cur := s.cur + 1, record := { s.record with ctx :=
      (s.record.ctx.set .stateEventIndicators (some (.word w))) } }

/-- R251, R254, as the RAW2 and DEVID rows run at CUR (the model's choice, log 10): two verbatim words. -/
def Obligations.TwoWordRowsReadAtCursor : Prop :=
  ∀ (s : State) (w0 w1 : Word), s.cur.toNat + 2 ≤ s.nIn.toNat →
    w0 = normWord Config.phpc (s.ibufAt s.cur.toNat) →
    w1 = normWord Config.phpc (s.ibufAt (s.cur.toNat + 1)) →
    exec .cifTimestampAdjustment s = .next { s with cur := s.cur + 2, record := { s.record with ctx :=
      (s.record.ctx.set .timestampAdjustment (some (.pair w0 w1))) } } ∧
    exec .cifDeviceId s = .next { s with cur := s.cur + 2, record := { s.record with ctx :=
      (s.record.ctx.set .deviceId (some (.pair w0 w1))) } } ∧
    exec .cifDataPayloadFormat s = .next { s with cur := s.cur + 2, record := { s.record with ctx :=
      (s.record.ctx.set .dataPayloadFormat (some (.pair w0 w1))) } }

/-- R252, as the six FREQ rows run at CUR (the model's choice, log 10): a signed 64-bit quantity, high word
first, over 2^20. -/
def Obligations.FrequencyRowsReadAtCursor : Prop :=
  ∀ (s : State) (x : F64), s.cur.toNat + 2 ≤ s.nIn.toNat →
    x = toFloat .binary64 (normWord Config.phpc (s.ibufAt s.cur.toNat) ++
      normWord Config.phpc (s.ibufAt (s.cur.toNat + 1))).toInt 20 →
    exec .cifBandwidth s = .next { s with cur := s.cur + 2, record := { s.record with ctx :=
      (s.record.ctx.set .bandwidth (some (.float x))) } } ∧
    exec .cifIfRefFreq s = .next { s with cur := s.cur + 2, record := { s.record with ctx :=
      (s.record.ctx.set .ifRefFreq (some (.float x))) } } ∧
    exec .cifRfRefFreq s = .next { s with cur := s.cur + 2, record := { s.record with ctx :=
      (s.record.ctx.set .rfRefFreq (some (.float x))) } } ∧
    exec .cifRfRefFreqOffset s = .next { s with cur := s.cur + 2, record := { s.record with ctx :=
      (s.record.ctx.set .rfRefFreqOffset (some (.float x))) } } ∧
    exec .cifIfBandOffset s = .next { s with cur := s.cur + 2, record := { s.record with ctx :=
      (s.record.ctx.set .ifBandOffset (some (.float x))) } } ∧
    exec .cifSampleRate s = .next { s with cur := s.cur + 2, record := { s.record with ctx :=
      (s.record.ctx.set .sampleRate (some (.float x))) } }

/-- R253, as the three FX16 rows run at CUR (the model's choice, log 10): bits [15:0] of one word, at 7 or 6
fractional bits. -/
def Obligations.SixteenBitRowsReadAtCursor : Prop :=
  ∀ (s : State) (v : BitVec 16), s.cur.toNat + 1 ≤ s.nIn.toNat →
    v = (normWord Config.phpc (s.ibufAt s.cur.toNat)).extractLsb' 0 16 →
    exec .cifReferenceLevel s = .next { s with cur := s.cur + 1, record := { s.record with ctx :=
      (s.record.ctx.set .referenceLevel (some (.float (toFloat .binary64 v.toInt 7)))) } } ∧
    exec .cifGain s = .next { s with cur := s.cur + 1, record := { s.record with ctx :=
      (s.record.ctx.set .gain (some (.float (toFloat .binary64 v.toInt 7)))) } } ∧
    exec .cifTemperature s = .next { s with cur := s.cur + 1, record := { s.record with ctx :=
      (s.record.ctx.set .temperature (some (.float (toFloat .binary64 v.toInt 6)))) } }

/-- R250, R256, as the rows changeIndicator and geolocation run at CUR (the model's choice, log 10). -/
def Obligations.FlagAndGeolocationRowsReadAtCursor : Prop :=
  (∀ s : State, exec .cifChangeIndicator s = .next { s with record := { s.record with ctx :=
    (s.record.ctx.set .changeIndicator (some .flag)) } }) ∧
  (∀ (s : State) (g : Nat → Word), s.cur.toNat + 11 ≤ s.nIn.toNat →
    (∀ k, g k = normWord Config.phpc (s.ibufAt (s.cur.toNat + k))) →
    exec .cifGeolocation s = .next { s with cur := s.cur + 11, record := { s.record with ctx :=
      (s.record.ctx.set .geolocation (some (.geo (Geo.mk (g 0) (g 1) (g 2 ++ g 3)
        (toFloat .binary64 (g 4).toInt 22) (toFloat .binary64 (g 5).toInt 22)
        (toFloat .binary64 (g 6).toInt 6) (toFloat .binary64 (g 7).toInt 16)
        (toFloat .binary64 (g 8).toInt 22) (toFloat .binary64 (g 9).toInt 22)
        (toFloat .binary64 (g 10).toInt 22))))) } })

/-- R244, R304, as the rows run at CUR (the model's choice, log 10): a row whose words would pass the end ends in
E_TRUNCATED_FIELD with its number and the cursor. -/
def Obligations.FieldRowsTruncateAtPacketEnd : Prop :=
  ∀ (r : Nat) (i : Instr) (row : FieldRow) (s : State),
    Config.defaultFieldTable[r]? = some row → instrOfField row.name = some i →
    0 < row.dec.width → s.nIn.toNat < s.cur.toNat + row.dec.width →
      ∃ t, exec i s = .next t ∧
        FailedDecode s t 0x12 (BitVec.ofNat 32 (r + 1024 * s.cur.toNat)) s.cur

/-! ## The fixed-point codec -/

/-- R142: TO_FLOAT always completes, at each of its three widths. -/
def Obligations.ToFloatConvertsLowBits : Prop :=
  ∀ (s : State) (n : BitVec 64) (frac : BitVec 6),
    exec (.toFloat n frac 0) s = .next { s with
      fxvalOut := toFloat .binary64 (n.extractLsb' 0 16).toInt frac.toNat, status := 0x10, errinfo := 0 } ∧
    exec (.toFloat n frac 1) s = .next { s with
      fxvalOut := toFloat .binary64 (n.extractLsb' 0 32).toInt frac.toNat, status := 0x10, errinfo := 0 } ∧
    exec (.toFloat n frac 2) s = .next { s with
      fxvalOut := toFloat .binary64 n.toInt frac.toNat, status := 0x10, errinfo := 0 }

/-- R145, R146: TO_FIXED always completes: the integer sign-extended to 64 bits, or E_ARITHMETIC_OVERFLOW, of
FXINT_OUT nothing being said. -/
def Obligations.ToFixedConvertsOrOverflows : Prop :=
  ∀ (s : State) (x : F64) (frac : BitVec 6) (width : BitVec 2) (W : Nat),
    (width = 0 ∧ W = 16) ∨ (width = 1 ∧ W = 32) ∨ (width = 2 ∧ W = 64) →
    (∀ i, toFixed .binary64 .nearestEven x frac.toNat W = some i →
      exec (.toFixed x frac width) s = .next { s with
        fxintOut := BitVec.ofInt 64 i, status := 0x10, errinfo := 0 }) ∧
    (toFixed .binary64 .nearestEven x frac.toNat W = none →
      ∃ t, exec (.toFixed x frac width) s = .next t ∧
        t = { s with fxintOut := t.fxintOut, status := 0x14, errinfo := 0x3F, free := t.free })

/-- R144: `toFixed` under NEAREST_EVEN: exactly the nearest integer to the exact product, the even one on a tie,
when it is in range; nothing for a NaN, an infinity or an integer out of range. -/
def Obligations.ToFixedRoundsToNearestEven : Prop :=
  ∀ (x : F64) (frac W : Nat) (i : Int), frac ≤ 63 → W ∈ [16, 32, 64] →
    (toFixed .binary64 .nearestEven x frac W = some i ↔
      floatIsFinite .binary64 x = true ∧ NearestEven (floatValue .binary64 x * 2 ^ frac) i ∧
        -(2 : Int) ^ (W - 1) ≤ i ∧ i ≤ 2 ^ (W - 1) - 1)

/-- R143: `toFloat` of a 64-bit integer is finite and nearest to the exact quotient, with an even significand on
a tie; it is exact below 2^53 in magnitude; and zero gives +0.0. -/
def Obligations.ToFloatIsNearestFloat : Prop :=
  (∀ (v : Int) (frac : Nat), frac ≤ 63 → -(2 : Int) ^ 63 ≤ v → v ≤ 2 ^ 63 - 1 →
    floatIsFinite .binary64 (toFloat .binary64 v frac) = true ∧
    (∀ y : F64, floatIsFinite .binary64 y = true →
      |floatValue .binary64 (toFloat .binary64 v frac) - (v : ℚ) / 2 ^ frac| ≤ |floatValue .binary64 y - (v : ℚ) / 2 ^ frac|) ∧
    (∀ y : F64, floatIsFinite .binary64 y = true → floatValue .binary64 y ≠ floatValue .binary64 (toFloat .binary64 v frac) →
      |floatValue .binary64 y - (v : ℚ) / 2 ^ frac| = |floatValue .binary64 (toFloat .binary64 v frac) - (v : ℚ) / 2 ^ frac| →
      (toFloat .binary64 v frac).getLsbD 0 = false) ∧
    (v.natAbs < 2 ^ 53 → floatValue .binary64 (toFloat .binary64 v frac) = (v : ℚ) / 2 ^ frac)) ∧
  (∀ frac : Nat, toFloat .binary64 0 frac = 0)

/-- R147: the exact round trip from the integer side, under every rounding mode. -/
def Obligations.FixedToFloatToFixedIsExact : Prop :=
  ∀ (mode : FxRound) (W frac : Nat) (v : Int), W ∈ [16, 32, 64] → frac ≤ 63 →
    -(2 : Int) ^ (W - 1) ≤ v → v ≤ 2 ^ (W - 1) - 1 → v.natAbs < 2 ^ 53 →
      toFixed .binary64 mode (toFloat .binary64 v frac) frac W = some v

/-- R148: the bounded round trip from the float side. -/
def Obligations.FloatToFixedToFloatIsBounded : Prop :=
  ∀ (mode : FxRound) (W frac : Nat) (x : F64) (i : Int), W ∈ [16, 32, 64] → frac ≤ 63 →
    floatIsFinite .binary64 x = true → toFixed .binary64 mode x frac W = some i → i.natAbs < 2 ^ 53 →
      (mode ≠ .trunc →
        |floatValue .binary64 (toFloat .binary64 i frac) - floatValue .binary64 x| ≤ 1 / 2 ^ (frac + 1)) ∧
      (mode = .trunc → |floatValue .binary64 (toFloat .binary64 i frac) - floatValue .binary64 x| < 1 / 2 ^ frac) ∧
      ((∃ n : Int, floatValue .binary64 x = (n : ℚ) / 2 ^ frac) → floatValue .binary64 (toFloat .binary64 i frac) = floatValue .binary64 x)

/-! ## The whole machine -/

/-- Every step keeps the invariant: the memories canonical (R50), the counts in range (R22, R23), STATUS and
ERRINFO legal (R25, R26). -/
def Obligations.StepKeepsMachineLegal : Prop :=
  ∀ s t : State, s.Inv → step s = .next t → t.Inv

/-- The invariant holds right after reset. -/
def Obligations.ResetIsLegal : Prop := State.reset.Inv

/-- R21, R38: no operation writes IBUF or N_IN (nor the caller's own actions). -/
def Obligations.OperationsLeaveInputBuffer : Prop :=
  ∀ (i : Instr) (s t : State), exec i s = .next t →
    t.ibuf = s.ibuf ∧ t.nIn = s.nIn ∧ t.pending = s.pending

/-- R38: who writes what. The sample stores are also touched by a failed DECODE_CONTEXT, which makes them
unspecified (R305). R38 lists operations: what the rows of packet words write (a field's row CUR and, when the walk's
error ends it, what a failed DECODE_CONTEXT does, else neither store, NSAMP nor the trailer; the row IQ RAWIQ and NSAMP) is
the model's choice (log 8, log 10). -/
def Obligations.EachPlaceHasItsWriters : Prop :=
  ∀ (i : Instr) (s t : State), exec i s = .next t →
    (i ≠ .normalize → i ≠ .encodeData → i ≠ .encodeContext → t.obuf = s.obuf ∧ t.nOut = s.nOut) ∧
    ((∀ S ref, i ≠ .decodeData S ref) → (∀ S, i ≠ .decodeContext S) → isFieldRow i = false →
      t.cur = s.cur ∧ t.scaled = s.scaled ∧
        ((∀ x y, i ≠ .iq x y) → t.rawiq = s.rawiq ∧ t.nsamp = s.nsamp)) ∧
    ((isFieldRow i = true ∨ ∃ S, i = .decodeContext S) →
      t.status ≠ 0x12 → t.status ≠ 0x11 → t.status ≠ 0x1B →
      t.scaled = s.scaled ∧ t.rawiq = s.rawiq ∧ t.nsamp = s.nsamp ∧ t.record.trl = s.record.trl) ∧
    (isCommand i = true → (∀ S ref, i ≠ .decodeData S ref) → (∀ S, i ≠ .decodeContext S) →
      t.record = s.record) ∧
    (isCommand i = true → i ≠ .peek → t.ptype = s.ptype ∧ t.pcode = s.pcode ∧ t.psize = s.psize) ∧
    ((∀ x f w, i ≠ .toFixed x f w) → t.fxintOut = s.fxintOut) ∧
    ((∀ x f w, i ≠ .toFloat x f w) → t.fxvalOut = s.fxvalOut) ∧
    (i ≠ .packHeader → i ≠ .packTrailer → i ≠ .packIndicator → t.packout = s.packout)

/-- R37, R56: a decode depends on the S words of the packet and its operands alone: not on later words of IBUF,
on N_IN beyond S, on REC, or on what ran before. -/
def Obligations.DecodesDependOnPacketAlone : Prop :=
  ∀ (s s' : State) (S : BitVec 16), S.toNat ≤ s.nIn.toNat → S.toNat ≤ s'.nIn.toNat →
    (∀ k, k < S.toNat → s.ibufAt k = s'.ibufAt k) →
    (∀ (ref : F64) (t t' : State), exec (.decodeData S ref) s = .next t →
      exec (.decodeData S ref) s' = .next t' →
        t.status = t'.status ∧ t.errinfo = t'.errinfo ∧ t.cur = t'.cur ∧
        t.record.kind = t'.record.kind ∧
        (t.status = 0x10 → t.record.pro = t'.record.pro ∧ t.record.trl = t'.record.trl ∧
          t.nsamp = t'.nsamp ∧ ∀ j, j < t.nsamp.toNat →
            t.rawiqAt j = t'.rawiqAt j ∧ t.scaledAt j = t'.scaledAt j)) ∧
    (∀ t t' : State, exec (.decodeContext S) s = .next t → exec (.decodeContext S) s' = .next t' →
      t.status = t'.status ∧ t.errinfo = t'.errinfo ∧ t.cur = t'.cur ∧
      t.record.kind = t'.record.kind ∧
      (t.status = 0x10 → t.record.pro = t'.record.pro ∧ t.record.ctx = t'.record.ctx))

/-! ## Encoding -/

/-- Every well-formed instruction is what its encoding decodes to, at every value of every operand. -/
def Obligations.DecodeInvertsEncode : Prop :=
  ∀ i : Instr, i.wf = true → decode (encode i) = .ok i

/-- R80, R81: for every tuple, each selector's operation with the members it reads, whatever the others hold. R83, R84,
R89, R90, R93, R210, R242: the words of the packet formats, written out. -/
def Obligations.SpecWordsDecode : Prop :=
  (∀ m : Cmd,
    (m.op = 0x1 → decode (.command m) = .ok .normalize) ∧
    (m.op = 0x2 → decode (.command m) = .ok .peek) ∧
    (m.op = 0x3 → decode (.command m) = .ok (.decodeData m.S m.ref)) ∧
    (m.op = 0x4 → decode (.command m) = .ok (.decodeContext m.S)) ∧
    (m.op = 0x5 → decode (.command m) = .ok .encodeData) ∧
    (m.op = 0x6 → decode (.command m) = .ok .encodeContext) ∧
    (m.op = 0x7 → m.width ≠ 3 → decode (.command m) = .ok (.toFixed m.fxval m.frac m.width)) ∧
    (m.op = 0x8 → m.width ≠ 3 → decode (.command m) = .ok (.toFloat m.fxint m.frac m.width)) ∧
    (m.op = 0x9 → decode (.command m) = .ok .packHeader) ∧
    (m.op = 0xA → decode (.command m) = .ok .packTrailer) ∧
    (m.op = 0xB → decode (.command m) = .ok .packIndicator)) ∧
  (∀ (flags : BitVec 8) (count : BitVec 4) (size : BitVec 16),
    decode (.element .hdr ((1 : BitVec 4) ++ flags ++ count ++ size)) = .ok (.hdrData flags count size) ∧
    decode (.element .hdr ((4 : BitVec 4) ++ flags ++ count ++ size)) = .ok (.hdrContext flags count size)) ∧
  (∀ i q : Sample, decode (.element .iq (i ++ q)) = .ok (.iq i q)) ∧
  decode (.element .trl 0x80000000) = .ok (.trlCalibratedTime false) ∧
  decode (.element .trl 0x80080000) = .ok (.trlCalibratedTime true) ∧
  decode (.element .trl 0x40000000) = .ok (.trlValidData false) ∧
  decode (.element .trl 0x40040000) = .ok (.trlValidData true) ∧
  decode (.element .trl 0x20000000) = .ok (.trlReferenceLock false) ∧
  decode (.element .trl 0x20020000) = .ok (.trlReferenceLock true) ∧
  decode (.element .trl 0x02000000) = .ok (.trlOverRange false) ∧
  decode (.element .trl 0x02002000) = .ok (.trlOverRange true) ∧
  decode (.element .trl 0x01000000) = .ok (.trlSampleLoss false) ∧
  decode (.element .trl 0x01001000) = .ok (.trlSampleLoss true) ∧
  (∀ n : BitVec 6, decode (.element .trl ((2 : BitVec 26) ++ n)) = .ok (.trlCtxCount n)) ∧
  decode (.element .cif 0x80000000) = .ok .cifChangeIndicator ∧
  decode (.element .cif 0x40000000) = .ok .cifReferencePointId ∧
  decode (.element .cif 0x20000000) = .ok .cifBandwidth ∧
  decode (.element .cif 0x10000000) = .ok .cifIfRefFreq ∧
  decode (.element .cif 0x08000000) = .ok .cifRfRefFreq ∧
  decode (.element .cif 0x04000000) = .ok .cifRfRefFreqOffset ∧
  decode (.element .cif 0x02000000) = .ok .cifIfBandOffset ∧
  decode (.element .cif 0x01000000) = .ok .cifReferenceLevel ∧
  decode (.element .cif 0x00800000) = .ok .cifGain ∧
  decode (.element .cif 0x00400000) = .ok .cifOverRangeCount ∧
  decode (.element .cif 0x00200000) = .ok .cifSampleRate ∧
  decode (.element .cif 0x00100000) = .ok .cifTimestampAdjustment ∧
  decode (.element .cif 0x00080000) = .ok .cifTimestampCalTime ∧
  decode (.element .cif 0x00040000) = .ok .cifTemperature ∧
  decode (.element .cif 0x00020000) = .ok .cifDeviceId ∧
  decode (.element .cif 0x00010000) = .ok .cifStateEventIndicators ∧
  decode (.element .cif 0x00008000) = .ok .cifDataPayloadFormat ∧
  decode (.element .cif 0x00004000) = .ok .cifGeolocation

/-! ## Parameters -/

/-- R206, R8, D13: the scale factor that the machine takes. It is the value that R8 takes for the parameter refScale,
which another instance may take otherwise (log 12): a NaN for a NaN, +infinity for +infinity, +0.0 for -infinity, and
for a finite level x the Float nearest to 10^(x/20), ties to even, or +infinity from the middle between the greatest
Float and 2^1024 on; `refScale(-20.0)` is the Float nearest to 0.1 and `refScale(0.0)` is 1.0. -/
def Obligations.RefScaleIsRoundedPowerOfTen : Prop :=
  (∀ x : F64, floatIsNan .binary64 x = true → floatIsNan .binary64 (Config.phpc.refScale x) = true) ∧
  Config.phpc.refScale 0x7FF0000000000000 = 0x7FF0000000000000 ∧
  Config.phpc.refScale 0xFFF0000000000000 = 0 ∧
  (∀ x : F64, floatIsFinite .binary64 x = true →
    ((10 : ℝ) ^ ((floatValue .binary64 x : ℝ) / 20) < 2 ^ 1024 - 2 ^ 970 →
      (Config.phpc.refScale x).getLsbD 63 = false ∧
      NearestFloat .binary64 ((10 : ℝ) ^ ((floatValue .binary64 x : ℝ) / 20)) (Config.phpc.refScale x)) ∧
    (2 ^ 1024 - 2 ^ 970 ≤ (10 : ℝ) ^ ((floatValue .binary64 x : ℝ) / 20) →
      Config.phpc.refScale x = 0x7FF0000000000000)) ∧
  Config.phpc.refScale 0xC034000000000000 = 0x3FB999999999999A ∧
  Config.phpc.refScale 0 = 0x3FF0000000000000

/-- R81, R8 OPCODES: under any map of distinct selectors, each operation's tuple decodes to it. -/
def Obligations.CommandsDecodeUnderAnyOpcodes : Prop :=
  ∀ (c : Config) (i : Instr), opcodesOk c.opcodes = true → isCommand i = true → i.wf = true →
    decodeWith c (encodeWith c i) = .ok i
end

