-- ==== Sys2Proof/Laws/Instance.lean ====
section
/-! SUPPORT. `exec` and `step` are the meanings and the step of the instance with the values that R8 takes. -/

namespace Sys2Proof.Machine

/-- The meanings over a configuration, at the values taken, are those of `exec`. -/
theorem execWith_phpc (i : Instr) (s : State) : execWith Config.phpc i s = exec i s := by
  cases i <;> rfl

/-- The step over a configuration, at the values taken, is `step`. -/
theorem stepWith_phpc (s : State) : stepWith Config.phpc s = step s := by
  have h : execWith Config.phpc = exec := funext fun i => funext fun s => execWith_phpc i s
  rw [stepWith, step, h]

end Sys2Proof.Machine
end

