-- ==== Sys2Proof/Laws/Memory.lean ====
section
/-! SUPPORT. The memories: read after write, and every memory operation keeps the canonical form. -/

namespace Sys2Proof.Machine

variable {w : Nat}

theorem lookupCell_insertCell_self (a : Nat) (v : BitVec w) (l : List (Nat × BitVec w)) :
    lookupCell (insertCell a v l) a = some v := by
  induction l with
  | nil => simp [insertCell, lookupCell]
  | cons p rest ih =>
    obtain ⟨b, u⟩ := p
    unfold insertCell
    split
    · simp [lookupCell]
    · split
      · simp [lookupCell]
      · rename_i h1 h2
        simp [lookupCell, h2, ih]

theorem lookupCell_insertCell_of_ne {a a' : Nat} (h : a' ≠ a) (v : BitVec w)
    (l : List (Nat × BitVec w)) : lookupCell (insertCell a v l) a' = lookupCell l a' := by
  induction l with
  | nil => simp [insertCell, lookupCell, h]
  | cons p rest ih =>
    obtain ⟨b, u⟩ := p
    unfold insertCell
    split
    · simp [lookupCell, h]
    · split
      · rename_i h1 h2
        subst h2
        simp [lookupCell, h]
      · simp only [lookupCell, ih]

variable (free : Nat → Nat → BitVec w) (m : Memory w)

/-- A read of the entry just written gives the value written. -/
@[simp] theorem Memory.read_write_self (a : Nat) (v : BitVec w) : (m.write a v).read free a = v := by
  simp [Memory.read, Memory.write, lookupCell_insertCell_self]

/-- A write leaves every other entry alone. -/
theorem Memory.read_write_of_ne {a a' : Nat} (h : a' ≠ a) (v : BitVec w) :
    (m.write a v).read free a' = m.read free a' := by
  simp [Memory.read, Memory.write, lookupCell_insertCell_of_ne h]

/-- A run of writes leaves the entries below it alone. -/
theorem Memory.read_writeFrom_of_lt {a a' : Nat} (h : a' < a) (vs : List (BitVec w)) :
    (m.writeFrom a vs).read free a' = m.read free a' := by
  induction vs generalizing m a with
  | nil => rfl
  | cons v vs ih =>
    rw [Memory.writeFrom, ih _ (Nat.lt_succ_of_lt h), Memory.read_write_of_ne _ _ (Nat.ne_of_lt h)]

/-- A run of writes leaves the entries above it alone. -/
theorem Memory.read_writeFrom_of_ge {a a' : Nat} (vs : List (BitVec w)) (h : a + vs.length ≤ a') :
    (m.writeFrom a vs).read free a' = m.read free a' := by
  induction vs generalizing m a with
  | nil => rfl
  | cons v vs ih =>
    simp only [List.length_cons] at h
    rw [Memory.writeFrom, ih _ (by omega), Memory.read_write_of_ne _ _ (by omega)]

/-- A run of writes puts its k-th value at the k-th entry. -/
theorem Memory.read_writeFrom_at {a k : Nat} (vs : List (BitVec w)) (h : k < vs.length) :
    (m.writeFrom a vs).read free (a + k) = vs[k] := by
  induction vs generalizing m a k with
  | nil => simp at h
  | cons v vs ih =>
    rw [Memory.writeFrom]
    cases k with
    | zero =>
      have ha : a < a + 1 := Nat.lt_succ_self a
      simp [Memory.read_writeFrom_of_lt free (m.write a v) ha vs]
    | succ k =>
      have hk : k < vs.length := by simpa using h
      have : a + (k + 1) = a + 1 + k := by omega
      rw [this, ih _ hk]
      simp

/-- Nothing is listed in a scrambled memory: every entry is free. -/
@[simp] theorem Memory.read_scramble (epoch a : Nat) :
    (Memory.scramble epoch : Memory w).read free a = free epoch a := rfl

theorem cellsWf_mono {size lo lo' : Nat} (h : lo' ≤ lo) {l : List (Nat × BitVec w)}
    (hl : cellsWf size lo l = true) : cellsWf size lo' l = true := by
  cases l with
  | nil => rfl
  | cons p rest =>
    obtain ⟨b, u⟩ := p
    simp only [cellsWf, Bool.and_eq_true, decide_eq_true_eq] at hl ⊢
    exact ⟨⟨by omega, hl.1.2⟩, hl.2⟩

theorem cellsWf_insertCell {size lo a : Nat} (hlo : lo ≤ a) (ha : a < size) (v : BitVec w)
    {l : List (Nat × BitVec w)} (hl : cellsWf size lo l = true) :
    cellsWf size lo (insertCell a v l) = true := by
  induction l generalizing lo with
  | nil => simp [insertCell, cellsWf, hlo, ha]
  | cons p rest ih =>
    obtain ⟨b, u⟩ := p
    simp only [cellsWf, Bool.and_eq_true, decide_eq_true_eq] at hl
    unfold insertCell
    split
    · rename_i h
      simp only [cellsWf, Bool.and_eq_true, decide_eq_true_eq]
      exact ⟨⟨hlo, ha⟩, ⟨h, hl.1.2⟩, hl.2⟩
    · split
      · rename_i h1 h2
        subst h2
        simp only [cellsWf, Bool.and_eq_true, decide_eq_true_eq]
        exact ⟨⟨hlo, ha⟩, hl.2⟩
      · simp only [cellsWf, Bool.and_eq_true, decide_eq_true_eq]
        exact ⟨hl.1, ih (by omega) hl.2⟩

variable {m}

/-- A write inside the space keeps the canonical form. -/
theorem Memory.wf_write {size a : Nat} (v : BitVec w) (ha : a < size) (hm : m.wf size = true) :
    (m.write a v).wf size = true := cellsWf_insertCell (Nat.zero_le a) ha v hm

/-- A run of writes inside the space keeps the canonical form. -/
theorem Memory.wf_writeFrom {size a : Nat} (vs : List (BitVec w)) (ha : a + vs.length ≤ size)
    (hm : m.wf size = true) : (m.writeFrom a vs).wf size = true := by
  induction vs generalizing m a with
  | nil => exact hm
  | cons v vs ih =>
    simp only [List.length_cons] at ha
    exact ih (by omega) (Memory.wf_write v (by omega) hm)

/-- A memory with nothing listed has the canonical form. -/
@[simp] theorem Memory.wf_nil (size epoch : Nat) : (⟨epoch, []⟩ : Memory w).wf size = true := rfl

/-- A scrambled memory has the canonical form. -/
@[simp] theorem Memory.wf_scramble (size epoch : Nat) :
    (Memory.scramble epoch : Memory w).wf size = true := rfl

/-- A transport load keeps the canonical form of IBUF. -/
theorem wf_loadWords {m : Memory 32} (ws : List (BitVec 16 × Word)) (hm : m.wf 65536 = true) :
    (loadWords m ws).wf 65536 = true := by
  induction ws generalizing m with
  | nil => exact hm
  | cons p rest ih => exact ih (Memory.wf_write _ p.1.isLt hm)

/-- The memories of the reset state have the canonical form. -/
theorem reset_memories_wf :
    State.reset.ibuf.wf 65536 = true ∧ State.reset.obuf.wf 65536 = true ∧
      State.reset.rawiq.wf 131072 = true ∧ State.reset.scaled.wf 131072 = true := by decide

end Sys2Proof.Machine
end

