-- ==== Sys2Proof/Laws/State.lean ====
section
/-! SUPPORT. One lemma per field per named update of the state, so that no later proof unfolds a record
update; and the get-after-set lemmas of the record's members. -/

namespace Sys2Proof.Machine

/-! ### complete -/

@[simp] theorem complete_ibuf (s : State) :
    (complete s).ibuf = s.ibuf := rfl
@[simp] theorem complete_nIn (s : State) :
    (complete s).nIn = s.nIn := rfl
@[simp] theorem complete_obuf (s : State) :
    (complete s).obuf = s.obuf := rfl
@[simp] theorem complete_nOut (s : State) :
    (complete s).nOut = s.nOut := rfl
@[simp] theorem complete_cur (s : State) :
    (complete s).cur = s.cur := rfl
@[simp] theorem complete_status (s : State) :
    (complete s).status = statusOk := rfl
@[simp] theorem complete_errinfo (s : State) :
    (complete s).errinfo = 0 := rfl
@[simp] theorem complete_ptype (s : State) :
    (complete s).ptype = s.ptype := rfl
@[simp] theorem complete_pcode (s : State) :
    (complete s).pcode = s.pcode := rfl
@[simp] theorem complete_psize (s : State) :
    (complete s).psize = s.psize := rfl
@[simp] theorem complete_record (s : State) :
    (complete s).record = s.record := rfl
@[simp] theorem complete_nsamp (s : State) :
    (complete s).nsamp = s.nsamp := rfl
@[simp] theorem complete_rawiq (s : State) :
    (complete s).rawiq = s.rawiq := rfl
@[simp] theorem complete_scaled (s : State) :
    (complete s).scaled = s.scaled := rfl
@[simp] theorem complete_fxintOut (s : State) :
    (complete s).fxintOut = s.fxintOut := rfl
@[simp] theorem complete_fxvalOut (s : State) :
    (complete s).fxvalOut = s.fxvalOut := rfl
@[simp] theorem complete_packout (s : State) :
    (complete s).packout = s.packout := rfl
@[simp] theorem complete_free (s : State) :
    (complete s).free = s.free := rfl
@[simp] theorem complete_pending (s : State) :
    (complete s).pending = s.pending := rfl

/-! ### memWrite -/

@[simp] theorem memWrite_ibuf (c : Config) (s : State) (a : Nat) (ws : List Word) :
    (memWrite c s a ws).ibuf = s.ibuf := rfl
@[simp] theorem memWrite_nIn (c : Config) (s : State) (a : Nat) (ws : List Word) :
    (memWrite c s a ws).nIn = s.nIn := rfl
@[simp] theorem memWrite_obuf (c : Config) (s : State) (a : Nat) (ws : List Word) :
    (memWrite c s a ws).obuf = s.obuf.writeFrom a (ws.map (normWord c)) := rfl
@[simp] theorem memWrite_nOut (c : Config) (s : State) (a : Nat) (ws : List Word) :
    (memWrite c s a ws).nOut = s.nOut := rfl
@[simp] theorem memWrite_cur (c : Config) (s : State) (a : Nat) (ws : List Word) :
    (memWrite c s a ws).cur = s.cur := rfl
@[simp] theorem memWrite_status (c : Config) (s : State) (a : Nat) (ws : List Word) :
    (memWrite c s a ws).status = s.status := rfl
@[simp] theorem memWrite_errinfo (c : Config) (s : State) (a : Nat) (ws : List Word) :
    (memWrite c s a ws).errinfo = s.errinfo := rfl
@[simp] theorem memWrite_ptype (c : Config) (s : State) (a : Nat) (ws : List Word) :
    (memWrite c s a ws).ptype = s.ptype := rfl
@[simp] theorem memWrite_pcode (c : Config) (s : State) (a : Nat) (ws : List Word) :
    (memWrite c s a ws).pcode = s.pcode := rfl
@[simp] theorem memWrite_psize (c : Config) (s : State) (a : Nat) (ws : List Word) :
    (memWrite c s a ws).psize = s.psize := rfl
@[simp] theorem memWrite_record (c : Config) (s : State) (a : Nat) (ws : List Word) :
    (memWrite c s a ws).record = s.record := rfl
@[simp] theorem memWrite_nsamp (c : Config) (s : State) (a : Nat) (ws : List Word) :
    (memWrite c s a ws).nsamp = s.nsamp := rfl
@[simp] theorem memWrite_rawiq (c : Config) (s : State) (a : Nat) (ws : List Word) :
    (memWrite c s a ws).rawiq = s.rawiq := rfl
@[simp] theorem memWrite_scaled (c : Config) (s : State) (a : Nat) (ws : List Word) :
    (memWrite c s a ws).scaled = s.scaled := rfl
@[simp] theorem memWrite_fxintOut (c : Config) (s : State) (a : Nat) (ws : List Word) :
    (memWrite c s a ws).fxintOut = s.fxintOut := rfl
@[simp] theorem memWrite_fxvalOut (c : Config) (s : State) (a : Nat) (ws : List Word) :
    (memWrite c s a ws).fxvalOut = s.fxvalOut := rfl
@[simp] theorem memWrite_packout (c : Config) (s : State) (a : Nat) (ws : List Word) :
    (memWrite c s a ws).packout = s.packout := rfl
@[simp] theorem memWrite_free (c : Config) (s : State) (a : Nat) (ws : List Word) :
    (memWrite c s a ws).free = s.free := rfl
@[simp] theorem memWrite_pending (c : Config) (s : State) (a : Nat) (ws : List Word) :
    (memWrite c s a ws).pending = s.pending := rfl

/-! ### peekWord -/

@[simp] theorem peekWord_ibuf (c : Config) (w : Word) (s : State) :
    (peekWord c w s).ibuf = s.ibuf := rfl
@[simp] theorem peekWord_nIn (c : Config) (w : Word) (s : State) :
    (peekWord c w s).nIn = s.nIn := rfl
@[simp] theorem peekWord_obuf (c : Config) (w : Word) (s : State) :
    (peekWord c w s).obuf = s.obuf := rfl
@[simp] theorem peekWord_nOut (c : Config) (w : Word) (s : State) :
    (peekWord c w s).nOut = s.nOut := rfl
@[simp] theorem peekWord_cur (c : Config) (w : Word) (s : State) :
    (peekWord c w s).cur = s.cur := rfl
@[simp] theorem peekWord_status (c : Config) (w : Word) (s : State) :
    (peekWord c w s).status = s.status := rfl
@[simp] theorem peekWord_errinfo (c : Config) (w : Word) (s : State) :
    (peekWord c w s).errinfo = s.errinfo := rfl
@[simp] theorem peekWord_ptype (c : Config) (w : Word) (s : State) :
    (peekWord c w s).ptype = classify c w := rfl
@[simp] theorem peekWord_pcode (c : Config) (w : Word) (s : State) :
    (peekWord c w s).pcode = headerType c w := rfl
@[simp] theorem peekWord_psize (c : Config) (w : Word) (s : State) :
    (peekWord c w s).psize = headerSize c w := rfl
@[simp] theorem peekWord_record (c : Config) (w : Word) (s : State) :
    (peekWord c w s).record = s.record := rfl
@[simp] theorem peekWord_nsamp (c : Config) (w : Word) (s : State) :
    (peekWord c w s).nsamp = s.nsamp := rfl
@[simp] theorem peekWord_rawiq (c : Config) (w : Word) (s : State) :
    (peekWord c w s).rawiq = s.rawiq := rfl
@[simp] theorem peekWord_scaled (c : Config) (w : Word) (s : State) :
    (peekWord c w s).scaled = s.scaled := rfl
@[simp] theorem peekWord_fxintOut (c : Config) (w : Word) (s : State) :
    (peekWord c w s).fxintOut = s.fxintOut := rfl
@[simp] theorem peekWord_fxvalOut (c : Config) (w : Word) (s : State) :
    (peekWord c w s).fxvalOut = s.fxvalOut := rfl
@[simp] theorem peekWord_packout (c : Config) (w : Word) (s : State) :
    (peekWord c w s).packout = s.packout := rfl
@[simp] theorem peekWord_free (c : Config) (w : Word) (s : State) :
    (peekWord c w s).free = s.free := rfl
@[simp] theorem peekWord_pending (c : Config) (w : Word) (s : State) :
    (peekWord c w s).pending = s.pending := rfl

/-! ### setTrailerPair -/

@[simp] theorem setTrailerPair_ibuf (p : TrailerName) (b : Bool) (s : State) :
    (setTrailerPair p b s).ibuf = s.ibuf := rfl
@[simp] theorem setTrailerPair_nIn (p : TrailerName) (b : Bool) (s : State) :
    (setTrailerPair p b s).nIn = s.nIn := rfl
@[simp] theorem setTrailerPair_obuf (p : TrailerName) (b : Bool) (s : State) :
    (setTrailerPair p b s).obuf = s.obuf := rfl
@[simp] theorem setTrailerPair_nOut (p : TrailerName) (b : Bool) (s : State) :
    (setTrailerPair p b s).nOut = s.nOut := rfl
@[simp] theorem setTrailerPair_cur (p : TrailerName) (b : Bool) (s : State) :
    (setTrailerPair p b s).cur = s.cur := rfl
@[simp] theorem setTrailerPair_status (p : TrailerName) (b : Bool) (s : State) :
    (setTrailerPair p b s).status = s.status := rfl
@[simp] theorem setTrailerPair_errinfo (p : TrailerName) (b : Bool) (s : State) :
    (setTrailerPair p b s).errinfo = s.errinfo := rfl
@[simp] theorem setTrailerPair_ptype (p : TrailerName) (b : Bool) (s : State) :
    (setTrailerPair p b s).ptype = s.ptype := rfl
@[simp] theorem setTrailerPair_pcode (p : TrailerName) (b : Bool) (s : State) :
    (setTrailerPair p b s).pcode = s.pcode := rfl
@[simp] theorem setTrailerPair_psize (p : TrailerName) (b : Bool) (s : State) :
    (setTrailerPair p b s).psize = s.psize := rfl
@[simp] theorem setTrailerPair_record (p : TrailerName) (b : Bool) (s : State) :
    (setTrailerPair p b s).record = { s.record with trl := s.record.trl.setPair (some b) p } := rfl
@[simp] theorem setTrailerPair_nsamp (p : TrailerName) (b : Bool) (s : State) :
    (setTrailerPair p b s).nsamp = s.nsamp := rfl
@[simp] theorem setTrailerPair_rawiq (p : TrailerName) (b : Bool) (s : State) :
    (setTrailerPair p b s).rawiq = s.rawiq := rfl
@[simp] theorem setTrailerPair_scaled (p : TrailerName) (b : Bool) (s : State) :
    (setTrailerPair p b s).scaled = s.scaled := rfl
@[simp] theorem setTrailerPair_fxintOut (p : TrailerName) (b : Bool) (s : State) :
    (setTrailerPair p b s).fxintOut = s.fxintOut := rfl
@[simp] theorem setTrailerPair_fxvalOut (p : TrailerName) (b : Bool) (s : State) :
    (setTrailerPair p b s).fxvalOut = s.fxvalOut := rfl
@[simp] theorem setTrailerPair_packout (p : TrailerName) (b : Bool) (s : State) :
    (setTrailerPair p b s).packout = s.packout := rfl
@[simp] theorem setTrailerPair_free (p : TrailerName) (b : Bool) (s : State) :
    (setTrailerPair p b s).free = s.free := rfl
@[simp] theorem setTrailerPair_pending (p : TrailerName) (b : Bool) (s : State) :
    (setTrailerPair p b s).pending = s.pending := rfl

/-! ### setTrailerCount -/

@[simp] theorem setTrailerCount_ibuf (n : BitVec 6) (s : State) :
    (setTrailerCount n s).ibuf = s.ibuf := rfl
@[simp] theorem setTrailerCount_nIn (n : BitVec 6) (s : State) :
    (setTrailerCount n s).nIn = s.nIn := rfl
@[simp] theorem setTrailerCount_obuf (n : BitVec 6) (s : State) :
    (setTrailerCount n s).obuf = s.obuf := rfl
@[simp] theorem setTrailerCount_nOut (n : BitVec 6) (s : State) :
    (setTrailerCount n s).nOut = s.nOut := rfl
@[simp] theorem setTrailerCount_cur (n : BitVec 6) (s : State) :
    (setTrailerCount n s).cur = s.cur := rfl
@[simp] theorem setTrailerCount_status (n : BitVec 6) (s : State) :
    (setTrailerCount n s).status = s.status := rfl
@[simp] theorem setTrailerCount_errinfo (n : BitVec 6) (s : State) :
    (setTrailerCount n s).errinfo = s.errinfo := rfl
@[simp] theorem setTrailerCount_ptype (n : BitVec 6) (s : State) :
    (setTrailerCount n s).ptype = s.ptype := rfl
@[simp] theorem setTrailerCount_pcode (n : BitVec 6) (s : State) :
    (setTrailerCount n s).pcode = s.pcode := rfl
@[simp] theorem setTrailerCount_psize (n : BitVec 6) (s : State) :
    (setTrailerCount n s).psize = s.psize := rfl
@[simp] theorem setTrailerCount_record (n : BitVec 6) (s : State) :
    (setTrailerCount n s).record = { s.record with trl := { s.record.trl with ctxCount := some n } } := rfl
@[simp] theorem setTrailerCount_nsamp (n : BitVec 6) (s : State) :
    (setTrailerCount n s).nsamp = s.nsamp := rfl
@[simp] theorem setTrailerCount_rawiq (n : BitVec 6) (s : State) :
    (setTrailerCount n s).rawiq = s.rawiq := rfl
@[simp] theorem setTrailerCount_scaled (n : BitVec 6) (s : State) :
    (setTrailerCount n s).scaled = s.scaled := rfl
@[simp] theorem setTrailerCount_fxintOut (n : BitVec 6) (s : State) :
    (setTrailerCount n s).fxintOut = s.fxintOut := rfl
@[simp] theorem setTrailerCount_fxvalOut (n : BitVec 6) (s : State) :
    (setTrailerCount n s).fxvalOut = s.fxvalOut := rfl
@[simp] theorem setTrailerCount_packout (n : BitVec 6) (s : State) :
    (setTrailerCount n s).packout = s.packout := rfl
@[simp] theorem setTrailerCount_free (n : BitVec 6) (s : State) :
    (setTrailerCount n s).free = s.free := rfl
@[simp] theorem setTrailerCount_pending (n : BitVec 6) (s : State) :
    (setTrailerCount n s).pending = s.pending := rfl

/-! ### presentFetch -/

@[simp] theorem presentFetch_ibuf (s : State) (f : Fetch) :
    (presentFetch s f).ibuf = s.ibuf := rfl
@[simp] theorem presentFetch_nIn (s : State) (f : Fetch) :
    (presentFetch s f).nIn = s.nIn := rfl
@[simp] theorem presentFetch_obuf (s : State) (f : Fetch) :
    (presentFetch s f).obuf = s.obuf := rfl
@[simp] theorem presentFetch_nOut (s : State) (f : Fetch) :
    (presentFetch s f).nOut = s.nOut := rfl
@[simp] theorem presentFetch_cur (s : State) (f : Fetch) :
    (presentFetch s f).cur = s.cur := rfl
@[simp] theorem presentFetch_status (s : State) (f : Fetch) :
    (presentFetch s f).status = s.status := rfl
@[simp] theorem presentFetch_errinfo (s : State) (f : Fetch) :
    (presentFetch s f).errinfo = s.errinfo := rfl
@[simp] theorem presentFetch_ptype (s : State) (f : Fetch) :
    (presentFetch s f).ptype = s.ptype := rfl
@[simp] theorem presentFetch_pcode (s : State) (f : Fetch) :
    (presentFetch s f).pcode = s.pcode := rfl
@[simp] theorem presentFetch_psize (s : State) (f : Fetch) :
    (presentFetch s f).psize = s.psize := rfl
@[simp] theorem presentFetch_record (s : State) (f : Fetch) :
    (presentFetch s f).record = s.record := rfl
@[simp] theorem presentFetch_nsamp (s : State) (f : Fetch) :
    (presentFetch s f).nsamp = s.nsamp := rfl
@[simp] theorem presentFetch_rawiq (s : State) (f : Fetch) :
    (presentFetch s f).rawiq = s.rawiq := rfl
@[simp] theorem presentFetch_scaled (s : State) (f : Fetch) :
    (presentFetch s f).scaled = s.scaled := rfl
@[simp] theorem presentFetch_fxintOut (s : State) (f : Fetch) :
    (presentFetch s f).fxintOut = s.fxintOut := rfl
@[simp] theorem presentFetch_fxvalOut (s : State) (f : Fetch) :
    (presentFetch s f).fxvalOut = s.fxvalOut := rfl
@[simp] theorem presentFetch_packout (s : State) (f : Fetch) :
    (presentFetch s f).packout = s.packout := rfl
@[simp] theorem presentFetch_free (s : State) (f : Fetch) :
    (presentFetch s f).free = s.free := rfl
@[simp] theorem presentFetch_pending (s : State) (f : Fetch) :
    (presentFetch s f).pending = .fetch f :: s.pending := rfl

/-! ### scrambleDecode -/

@[simp] theorem scrambleDecode_ibuf (e : ErrorOutcome) (s : State) :
    (scrambleDecode e s).ibuf = s.ibuf := rfl
@[simp] theorem scrambleDecode_nIn (e : ErrorOutcome) (s : State) :
    (scrambleDecode e s).nIn = s.nIn := rfl
@[simp] theorem scrambleDecode_obuf (e : ErrorOutcome) (s : State) :
    (scrambleDecode e s).obuf = s.obuf := rfl
@[simp] theorem scrambleDecode_nOut (e : ErrorOutcome) (s : State) :
    (scrambleDecode e s).nOut = s.nOut := rfl
@[simp] theorem scrambleDecode_cur (e : ErrorOutcome) (s : State) :
    (scrambleDecode e s).cur = errorCursor e := rfl
@[simp] theorem scrambleDecode_status (e : ErrorOutcome) (s : State) :
    (scrambleDecode e s).status = s.status := rfl
@[simp] theorem scrambleDecode_errinfo (e : ErrorOutcome) (s : State) :
    (scrambleDecode e s).errinfo = s.errinfo := rfl
@[simp] theorem scrambleDecode_ptype (e : ErrorOutcome) (s : State) :
    (scrambleDecode e s).ptype = s.ptype := rfl
@[simp] theorem scrambleDecode_pcode (e : ErrorOutcome) (s : State) :
    (scrambleDecode e s).pcode = s.pcode := rfl
@[simp] theorem scrambleDecode_psize (e : ErrorOutcome) (s : State) :
    (scrambleDecode e s).psize = s.psize := rfl
@[simp] theorem scrambleDecode_record (e : ErrorOutcome) (s : State) :
    (scrambleDecode e s).record = { Config.freeRecord s.free with kind := .none } := rfl
@[simp] theorem scrambleDecode_nsamp (e : ErrorOutcome) (s : State) :
    (scrambleDecode e s).nsamp = Config.freeNsamp s.free := rfl
@[simp] theorem scrambleDecode_rawiq (e : ErrorOutcome) (s : State) :
    (scrambleDecode e s).rawiq = Memory.scramble s.free := rfl
@[simp] theorem scrambleDecode_scaled (e : ErrorOutcome) (s : State) :
    (scrambleDecode e s).scaled = Memory.scramble s.free := rfl
@[simp] theorem scrambleDecode_fxintOut (e : ErrorOutcome) (s : State) :
    (scrambleDecode e s).fxintOut = s.fxintOut := rfl
@[simp] theorem scrambleDecode_fxvalOut (e : ErrorOutcome) (s : State) :
    (scrambleDecode e s).fxvalOut = s.fxvalOut := rfl
@[simp] theorem scrambleDecode_packout (e : ErrorOutcome) (s : State) :
    (scrambleDecode e s).packout = s.packout := rfl
@[simp] theorem scrambleDecode_free (e : ErrorOutcome) (s : State) :
    (scrambleDecode e s).free = s.free := rfl
@[simp] theorem scrambleDecode_pending (e : ErrorOutcome) (s : State) :
    (scrambleDecode e s).pending = s.pending := rfl

/-! ### scramblePeek -/

@[simp] theorem scramblePeek_ibuf (s : State) :
    (scramblePeek s).ibuf = s.ibuf := rfl
@[simp] theorem scramblePeek_nIn (s : State) :
    (scramblePeek s).nIn = s.nIn := rfl
@[simp] theorem scramblePeek_obuf (s : State) :
    (scramblePeek s).obuf = s.obuf := rfl
@[simp] theorem scramblePeek_nOut (s : State) :
    (scramblePeek s).nOut = s.nOut := rfl
@[simp] theorem scramblePeek_cur (s : State) :
    (scramblePeek s).cur = s.cur := rfl
@[simp] theorem scramblePeek_status (s : State) :
    (scramblePeek s).status = s.status := rfl
@[simp] theorem scramblePeek_errinfo (s : State) :
    (scramblePeek s).errinfo = s.errinfo := rfl
@[simp] theorem scramblePeek_ptype (s : State) :
    (scramblePeek s).ptype = Config.freePtype s.free := rfl
@[simp] theorem scramblePeek_pcode (s : State) :
    (scramblePeek s).pcode = Config.freePcode s.free := rfl
@[simp] theorem scramblePeek_psize (s : State) :
    (scramblePeek s).psize = Config.freePsize s.free := rfl
@[simp] theorem scramblePeek_record (s : State) :
    (scramblePeek s).record = s.record := rfl
@[simp] theorem scramblePeek_nsamp (s : State) :
    (scramblePeek s).nsamp = s.nsamp := rfl
@[simp] theorem scramblePeek_rawiq (s : State) :
    (scramblePeek s).rawiq = s.rawiq := rfl
@[simp] theorem scramblePeek_scaled (s : State) :
    (scramblePeek s).scaled = s.scaled := rfl
@[simp] theorem scramblePeek_fxintOut (s : State) :
    (scramblePeek s).fxintOut = s.fxintOut := rfl
@[simp] theorem scramblePeek_fxvalOut (s : State) :
    (scramblePeek s).fxvalOut = s.fxvalOut := rfl
@[simp] theorem scramblePeek_packout (s : State) :
    (scramblePeek s).packout = s.packout := rfl
@[simp] theorem scramblePeek_free (s : State) :
    (scramblePeek s).free = s.free := rfl
@[simp] theorem scramblePeek_pending (s : State) :
    (scramblePeek s).pending = s.pending := rfl

/-! ### scrambleEncode -/

@[simp] theorem scrambleEncode_ibuf (s : State) :
    (scrambleEncode s).ibuf = s.ibuf := rfl
@[simp] theorem scrambleEncode_nIn (s : State) :
    (scrambleEncode s).nIn = s.nIn := rfl
@[simp] theorem scrambleEncode_obuf (s : State) :
    (scrambleEncode s).obuf = Memory.scramble s.free := rfl
@[simp] theorem scrambleEncode_nOut (s : State) :
    (scrambleEncode s).nOut = BitVec.ofNat 17 (Config.freeNOut s.free).val := rfl
@[simp] theorem scrambleEncode_cur (s : State) :
    (scrambleEncode s).cur = s.cur := rfl
@[simp] theorem scrambleEncode_status (s : State) :
    (scrambleEncode s).status = s.status := rfl
@[simp] theorem scrambleEncode_errinfo (s : State) :
    (scrambleEncode s).errinfo = s.errinfo := rfl
@[simp] theorem scrambleEncode_ptype (s : State) :
    (scrambleEncode s).ptype = s.ptype := rfl
@[simp] theorem scrambleEncode_pcode (s : State) :
    (scrambleEncode s).pcode = s.pcode := rfl
@[simp] theorem scrambleEncode_psize (s : State) :
    (scrambleEncode s).psize = s.psize := rfl
@[simp] theorem scrambleEncode_record (s : State) :
    (scrambleEncode s).record = s.record := rfl
@[simp] theorem scrambleEncode_nsamp (s : State) :
    (scrambleEncode s).nsamp = s.nsamp := rfl
@[simp] theorem scrambleEncode_rawiq (s : State) :
    (scrambleEncode s).rawiq = s.rawiq := rfl
@[simp] theorem scrambleEncode_scaled (s : State) :
    (scrambleEncode s).scaled = s.scaled := rfl
@[simp] theorem scrambleEncode_fxintOut (s : State) :
    (scrambleEncode s).fxintOut = s.fxintOut := rfl
@[simp] theorem scrambleEncode_fxvalOut (s : State) :
    (scrambleEncode s).fxvalOut = s.fxvalOut := rfl
@[simp] theorem scrambleEncode_packout (s : State) :
    (scrambleEncode s).packout = s.packout := rfl
@[simp] theorem scrambleEncode_free (s : State) :
    (scrambleEncode s).free = s.free := rfl
@[simp] theorem scrambleEncode_pending (s : State) :
    (scrambleEncode s).pending = s.pending := rfl

/-! ### raiseError -/

@[simp] theorem raiseError_ibuf (op : Op) (e : ErrorOutcome) (s : State) :
    (raiseError op e s).ibuf = (scramble op e s).ibuf := rfl
@[simp] theorem raiseError_nIn (op : Op) (e : ErrorOutcome) (s : State) :
    (raiseError op e s).nIn = (scramble op e s).nIn := rfl
@[simp] theorem raiseError_obuf (op : Op) (e : ErrorOutcome) (s : State) :
    (raiseError op e s).obuf = (scramble op e s).obuf := rfl
@[simp] theorem raiseError_nOut (op : Op) (e : ErrorOutcome) (s : State) :
    (raiseError op e s).nOut = (scramble op e s).nOut := rfl
@[simp] theorem raiseError_cur (op : Op) (e : ErrorOutcome) (s : State) :
    (raiseError op e s).cur = (scramble op e s).cur := rfl
@[simp] theorem raiseError_status (op : Op) (e : ErrorOutcome) (s : State) :
    (raiseError op e s).status = errorStatus e := rfl
@[simp] theorem raiseError_errinfo (op : Op) (e : ErrorOutcome) (s : State) :
    (raiseError op e s).errinfo = errorInfo e := rfl
@[simp] theorem raiseError_ptype (op : Op) (e : ErrorOutcome) (s : State) :
    (raiseError op e s).ptype = (scramble op e s).ptype := rfl
@[simp] theorem raiseError_pcode (op : Op) (e : ErrorOutcome) (s : State) :
    (raiseError op e s).pcode = (scramble op e s).pcode := rfl
@[simp] theorem raiseError_psize (op : Op) (e : ErrorOutcome) (s : State) :
    (raiseError op e s).psize = (scramble op e s).psize := rfl
@[simp] theorem raiseError_record (op : Op) (e : ErrorOutcome) (s : State) :
    (raiseError op e s).record = (scramble op e s).record := rfl
@[simp] theorem raiseError_nsamp (op : Op) (e : ErrorOutcome) (s : State) :
    (raiseError op e s).nsamp = (scramble op e s).nsamp := rfl
@[simp] theorem raiseError_rawiq (op : Op) (e : ErrorOutcome) (s : State) :
    (raiseError op e s).rawiq = (scramble op e s).rawiq := rfl
@[simp] theorem raiseError_scaled (op : Op) (e : ErrorOutcome) (s : State) :
    (raiseError op e s).scaled = (scramble op e s).scaled := rfl
@[simp] theorem raiseError_fxintOut (op : Op) (e : ErrorOutcome) (s : State) :
    (raiseError op e s).fxintOut = (scramble op e s).fxintOut := rfl
@[simp] theorem raiseError_fxvalOut (op : Op) (e : ErrorOutcome) (s : State) :
    (raiseError op e s).fxvalOut = (scramble op e s).fxvalOut := rfl
@[simp] theorem raiseError_packout (op : Op) (e : ErrorOutcome) (s : State) :
    (raiseError op e s).packout = (scramble op e s).packout := rfl
@[simp] theorem raiseError_free (op : Op) (e : ErrorOutcome) (s : State) :
    (raiseError op e s).free = s.free + 1 := rfl
@[simp] theorem raiseError_pending (op : Op) (e : ErrorOutcome) (s : State) :
    (raiseError op e s).pending = (scramble op e s).pending := rfl

/-! ### State.resetWith -/

@[simp] theorem State.resetWith_ibuf (e n : Nat) (p : List Action) :
    (State.resetWith e n p).ibuf = ⟨e, []⟩ := rfl
@[simp] theorem State.resetWith_nIn (e n : Nat) (p : List Action) :
    (State.resetWith e n p).nIn = 0 := rfl
@[simp] theorem State.resetWith_obuf (e n : Nat) (p : List Action) :
    (State.resetWith e n p).obuf = ⟨e, []⟩ := rfl
@[simp] theorem State.resetWith_nOut (e n : Nat) (p : List Action) :
    (State.resetWith e n p).nOut = 0 := rfl
@[simp] theorem State.resetWith_cur (e n : Nat) (p : List Action) :
    (State.resetWith e n p).cur = 0 := rfl
@[simp] theorem State.resetWith_status (e n : Nat) (p : List Action) :
    (State.resetWith e n p).status = 0 := rfl
@[simp] theorem State.resetWith_errinfo (e n : Nat) (p : List Action) :
    (State.resetWith e n p).errinfo = 0 := rfl
@[simp] theorem State.resetWith_ptype (e n : Nat) (p : List Action) :
    (State.resetWith e n p).ptype = .invalid := rfl
@[simp] theorem State.resetWith_pcode (e n : Nat) (p : List Action) :
    (State.resetWith e n p).pcode = 0 := rfl
@[simp] theorem State.resetWith_psize (e n : Nat) (p : List Action) :
    (State.resetWith e n p).psize = 0 := rfl
@[simp] theorem State.resetWith_record (e n : Nat) (p : List Action) :
    (State.resetWith e n p).record = zeroRecord := rfl
@[simp] theorem State.resetWith_nsamp (e n : Nat) (p : List Action) :
    (State.resetWith e n p).nsamp = 0 := rfl
@[simp] theorem State.resetWith_rawiq (e n : Nat) (p : List Action) :
    (State.resetWith e n p).rawiq = ⟨e, []⟩ := rfl
@[simp] theorem State.resetWith_scaled (e n : Nat) (p : List Action) :
    (State.resetWith e n p).scaled = ⟨e, []⟩ := rfl
@[simp] theorem State.resetWith_fxintOut (e n : Nat) (p : List Action) :
    (State.resetWith e n p).fxintOut = 0 := rfl
@[simp] theorem State.resetWith_fxvalOut (e n : Nat) (p : List Action) :
    (State.resetWith e n p).fxvalOut = 0 := rfl
@[simp] theorem State.resetWith_packout (e n : Nat) (p : List Action) :
    (State.resetWith e n p).packout = 0 := rfl
@[simp] theorem State.resetWith_free (e n : Nat) (p : List Action) :
    (State.resetWith e n p).free = n := rfl
@[simp] theorem State.resetWith_pending (e n : Nat) (p : List Action) :
    (State.resetWith e n p).pending = p := rfl

/-! ### What a failed operation leaves unchanged (R305) -/

@[simp] theorem scramble_ibuf (op : Op) (e : ErrorOutcome) (s : State) :
    (scramble op e s).ibuf = s.ibuf := by cases op <;> rfl
@[simp] theorem scramble_nIn (op : Op) (e : ErrorOutcome) (s : State) :
    (scramble op e s).nIn = s.nIn := by cases op <;> rfl
@[simp] theorem scramble_fxvalOut (op : Op) (e : ErrorOutcome) (s : State) :
    (scramble op e s).fxvalOut = s.fxvalOut := by cases op <;> rfl
@[simp] theorem scramble_packout (op : Op) (e : ErrorOutcome) (s : State) :
    (scramble op e s).packout = s.packout := by cases op <;> rfl
@[simp] theorem scramble_pending (op : Op) (e : ErrorOutcome) (s : State) :
    (scramble op e s).pending = s.pending := by cases op <;> rfl

@[simp] theorem scramble_decodeData (e : ErrorOutcome) (s : State) :
    scramble .decodeData e s = scrambleDecode e s := rfl
@[simp] theorem scramble_decodeContext (e : ErrorOutcome) (s : State) :
    scramble .decodeContext e s = scrambleDecode e s := rfl
@[simp] theorem scramble_peek (e : ErrorOutcome) (s : State) : scramble .peek e s = scramblePeek s := rfl
@[simp] theorem scramble_encodeData (e : ErrorOutcome) (s : State) :
    scramble .encodeData e s = scrambleEncode s := rfl
@[simp] theorem scramble_encodeContext (e : ErrorOutcome) (s : State) :
    scramble .encodeContext e s = scrambleEncode s := rfl
@[simp] theorem scramble_toFixed (e : ErrorOutcome) (s : State) :
    scramble .toFixed e s = { s with fxintOut := Config.freeFxint s.free } := rfl

/-! ### Members of the record by name -/

@[simp] theorem Trailer.pair_setPair_self (t : Trailer) (v : Option Bool) (p : TrailerName) :
    (t.setPair v p).pair p = v := by cases p <;> rfl

theorem Trailer.pair_setPair_of_ne (t : Trailer) (v : Option Bool) {p q : TrailerName} (h : q ≠ p) :
    (t.setPair v p).pair q = t.pair q := by cases p <;> cases q <;> first | rfl | exact absurd rfl h

@[simp] theorem Trailer.setPair_ctxCount (t : Trailer) (v : Option Bool) (p : TrailerName) :
    (t.setPair v p).ctxCount = t.ctxCount := by cases p <;> rfl

/-- Two trailer records with the same pairs and the same count are the same. -/
theorem Trailer.eq_of_pair_eq {t u : Trailer} (h : ∀ p, t.pair p = u.pair p)
    (hc : t.ctxCount = u.ctxCount) : t = u := by
  cases t; cases u
  have h0 := h .calibratedTime
  have h1 := h .validData
  have h2 := h .referenceLock
  have h3 := h .overRange
  have h4 := h .sampleLoss
  simp only [Trailer.pair] at h0 h1 h2 h3 h4 hc
  subst h0 h1 h2 h3 h4 hc
  rfl

/-- Each name has a place of its own. -/
theorem FieldName.index_injective {m n : FieldName} (h : m.index = n.index) : m = n := by
  have hv : m.index.val = n.index.val := congrArg Fin.val h
  cases m <;> cases n <;> first
    | rfl
    | exact absurd hv (by decide)
    | (rename_i j k
       have : j = k := Fin.ext (by simpa [FieldName.index] using hv)
       rw [this])
    | (rename_i k
       exact absurd (show (_ : Nat) = 18 + k.val from hv) (by simp [FieldName.index]; try omega))
    | (rename_i k
       exact absurd (show 18 + k.val = (_ : Nat) from hv) (by simp [FieldName.index]; try omega))

@[simp] theorem ContextRec.get_set_self (x : ContextRec) (n : FieldName) (v : Option FieldValue) :
    (x.set n v).get n = v := by simp [ContextRec.get, ContextRec.set]

theorem ContextRec.get_set_of_ne (x : ContextRec) {m n : FieldName} (h : m ≠ n) (v : Option FieldValue) :
    (x.set n v).get m = x.get m := by
  have h' : n.index.val ≠ m.index.val := fun e => h (FieldName.index_injective (Fin.ext e.symm))
  simp [ContextRec.get, ContextRec.set, Vector.getElem_set_ne _ _ h']

@[simp] theorem ContextRec.set_indicator (x : ContextRec) (n : FieldName) (v : Option FieldValue) :
    (x.set n v).indicator = x.indicator := rfl

@[simp] theorem ContextRec.set_unknownBits (x : ContextRec) (n : FieldName) (v : Option FieldValue) :
    (x.set n v).unknownBits = x.unknownBits := rfl

@[simp] theorem ContextRec.get_empty (n : FieldName) : ContextRec.empty.get n = none := by
  simp [ContextRec.get, ContextRec.empty]

/-- A row's member, just set to a value of the row's type, is that value. -/
theorem ContextRec.member_set_self (x : ContextRec) (r : FieldRow) {v : FieldValue} (h : r.dec.fits v = true) :
    (x.set r.name (some v)).member r = some v := by simp [ContextRec.member, h]

/-- A row's member, just cleared, is absent. -/
@[simp] theorem ContextRec.member_set_none (x : ContextRec) (r : FieldRow) :
    (x.set r.name none).member r = none := by simp [ContextRec.member]

/-- Writing one member leaves those of the rows of other names. -/
theorem ContextRec.member_set_of_ne (x : ContextRec) {r : FieldRow} {n : FieldName} (h : r.name ≠ n)
    (v : Option FieldValue) : (x.set n v).member r = x.member r := by
  simp [ContextRec.member, ContextRec.get_set_of_ne x h]

/-- What a row decodes to is of the row's type. -/
@[simp] theorem fits_decodeValue (c : Config) (dec : FieldDec) (w : Nat → Word) :
    dec.fits (decodeValue c dec w) = true := by cases dec <;> rfl

end Sys2Proof.Machine
end

