-- ==== Sys2Proof/Laws/Ops.lean ====
section
/-! SUPPORT. For each shared operation, once, what it can do: proofs cite these instead of unfolding it. -/

namespace Sys2Proof.Machine

/-! ### Lists of words -/

@[simp] theorem length_memReadList (c : Config) (s : State) (a n : Nat) :
    (memReadList c s a n).length = n := by simp [memReadList]

/-- The k-th word read is the normalized word k places on. -/
theorem getElem_memReadList (c : Config) (s : State) (a n k : Nat)
    (h : k < (memReadList c s a n).length) : (memReadList c s a n)[k] = memRead c s (a + k) := by
  simp [memReadList]

@[simp] theorem length_payloadWords (c : Config) (s : State) (k n : Nat) :
    (payloadWords c s k n).length = n := by simp [payloadWords]

/-- The k-th payload word joins the k-th pair of RAWIQ. -/
theorem getElem_payloadWords (c : Config) (s : State) (n k : Nat)
    (h : k < (payloadWords c s 0 n).length) :
    (payloadWords c s 0 n)[k] = joinIQ c (s.rawiqAt (2 * k)) (s.rawiqAt (2 * k + 1)) := by
  simp [payloadWords]

@[simp] theorem length_splitPayload (c : Config) (ws : List Word) :
    (splitPayload c ws).length = 2 * ws.length := by
  induction ws with
  | nil => rfl
  | cons w ws ih => simp only [splitPayload, List.length_cons, ih]; omega

/-- Samples 2k and 2k+1 of a payload are the halves of its k-th word. -/
theorem getElem?_splitPayload (c : Config) (ws : List Word) (k : Nat) (w : Word) (h : ws[k]? = some w) :
    (splitPayload c ws)[2 * k]? = some (splitIQ c w).1 ∧
      (splitPayload c ws)[2 * k + 1]? = some (splitIQ c w).2 := by
  induction ws generalizing k with
  | nil => simp at h
  | cons u us ih =>
    cases k with
    | zero =>
      have hu : u = w := by simpa using h
      subst hu
      simp [splitPayload]
    | succ k =>
      have hk : us[k]? = some w := by simpa using h
      have h2 : 2 * (k + 1) = 2 * k + 2 := by omega
      rw [h2]
      simpa [splitPayload] using ih k hk

@[simp] theorem length_prologueWords (c : Config) (t : BitVec 4) (n : BitVec 16) (p : Prologue) :
    (prologueWords c t n p).length = 5 := rfl

@[simp] theorem length_dataPacketWords (c : Config) (s : State) :
    (dataPacketWords c s).length = 6 + s.nsamp.toNat / 2 := by
  simp [dataPacketWords]; omega

@[simp] theorem length_contextPacketWords (c : Config) (r : Record) (body : List Word) :
    (contextPacketWords c r body).length = 6 + body.length := by
  simp [contextPacketWords]; omega

/-! ### Checks and conversions -/

/-- The entry checks pass exactly when the size is plausible, the type is the operation's own and the fixed
part fits. -/
theorem entryChecks_eq_none_iff (S : BitVec 16) (nIn : BitVec 17) (found want : BitVec 4)
    (expected : BitVec 2) :
    entryChecks S nIn found want expected = none ↔
      6 ≤ S.toNat ∧ S.toNat ≤ nIn.toNat ∧ found = want := by
  unfold entryChecks
  constructor
  · intro h
    split at h
    · cases h
    · split at h
      · cases h
      · split at h
        · cases h
        · split at h
          · cases h
          · rename_i h1 h2 h3 h4
            exact ⟨by omega, by omega, not_not.mp h3⟩
  · rintro ⟨h1, h2, h3⟩
    rw [if_neg (by omega), if_neg (by omega), if_neg (not_not.mpr h3), if_neg (by omega)]

/-- What the OK outcome sets STATUS to. -/
@[simp] theorem statusOk_eq : statusOk = 0x10 := by decide

@[simp] theorem errorStatus_invalidPacketType (found : BitVec 4) (expected : BitVec 2) :
    errorStatus (.invalidPacketType found expected) = 0x11 := by
  show statusImage true false 1 = 0x11
  decide

@[simp] theorem errorStatus_truncatedField (index : BitVec 6) (cur : BitVec 17) :
    errorStatus (.truncatedField index cur) = 0x12 := by
  show statusImage true false 2 = 0x12
  decide

@[simp] theorem errorStatus_sizeImplausible (S : BitVec 16) (exceeds : Bool) :
    errorStatus (.sizeImplausible S exceeds) = 0x1B := by
  show statusImage true true 3 = 0x1B
  decide

@[simp] theorem errorStatus_arithmeticOverflow (site : BitVec 6) (sub : BitVec 4) :
    errorStatus (.arithmeticOverflow site sub) = 0x14 := by
  show statusImage true false 4 = 0x14
  decide

/-- The width codes that are not reserved. -/
theorem widthBits_eq_some_iff (width : BitVec 2) (W : Nat) :
    widthBits width = some W ↔
      (width = 0 ∧ W = 16) ∨ (width = 1 ∧ W = 32) ∨ (width = 2 ∧ W = 64) := by
  have h : width = 0 ∨ width = 1 ∨ width = 2 ∨ width = 3 := by
    revert width; decide
  rcases h with rfl | rfl | rfl | rfl <;> simp [widthBits, eq_comm]

/-- `toFixed` answers an integer exactly for a finite Float whose rounded multiple is in range. -/
theorem toFixed_eq_some_iff (fmt : FloatFmt) (mode : FxRound) (x : F64) (frac W : Nat) (i : Int) :
    toFixed fmt mode x frac W = some i ↔
      floatIsFinite fmt x = true ∧ scaledInt fmt mode x frac = i ∧ inSignedRange W i = true := by
  unfold toFixed
  split
  · rename_i h
    simp only [h, true_and]
    split
    · rename_i hr
      constructor
      · intro e
        have e' := Option.some.inj e
        exact ⟨e', e' ▸ hr⟩
      · rintro ⟨e, -⟩
        rw [e]
    · rename_i hr
      constructor
      · intro e; cases e
      · rintro ⟨e, hi⟩
        exact absurd (e ▸ hi) hr
  · rename_i h
    simp [h]

/-- Whatever its free sign and payload, a NaN is a NaN. -/
theorem floatIsNan_floatNan (b : Bool × BitVec 64) :
    floatIsNan .binary64 (floatNan .binary64 b) = true := by
  obtain ⟨s, p⟩ := b
  have hlt : p.toNat % 2 ^ 52 < 2 ^ 52 := Nat.mod_lt _ (by norm_num)
  generalize hq : (if p.toNat % 2 ^ 52 = 0 then 1 else p.toNat % 2 ^ 52) = q
  have h1 : 0 < q ∧ q < 2 ^ 52 := by subst hq; split <;> omega
  have hx : floatNan .binary64 (s, p) =
      ((BitVec.ofBool s).setWidth 64 <<< 63 ||| BitVec.ofNat 64 (2047 * 2 ^ 52 + q)) := by
    rw [← hq]; rfl
  -- the sign bit, at bit 63, is outside the fields read
  have cut : ∀ a n, a + n ≤ 63 → (floatNan .binary64 (s, p)).extractLsb' a n =
      (BitVec.ofNat 64 (2047 * 2 ^ 52 + q)).extractLsb' a n := by
    intro a n h
    rw [hx]
    apply BitVec.eq_of_getLsbD_eq
    intro i hi
    simp [hi]
    omega
  have e1 : floatExp .binary64 (floatNan .binary64 (s, p)) = 2047 := by
    show BitVec.toNat (BitVec.extractLsb' 52 11 _) = _
    rw [cut 52 11 (by omega)]
    simp [BitVec.extractLsb'_toNat, Nat.shiftRight_eq_div_pow]
    omega
  have e2 : floatFrac .binary64 (floatNan .binary64 (s, p)) = q := by
    show BitVec.toNat (BitVec.extractLsb' 0 52 _) = _
    rw [cut 0 52 (by omega)]
    simp [BitVec.extractLsb'_toNat]
    omega
  rw [floatIsNan, e1, e2]
  simp [floatExpMax, FloatFmt.binary64]
  omega

/-! ### The walk over the field table -/

/-- A row of the walk fails only when it is present, has words, and they would pass the bound. -/
theorem walkRow_eq_error_iff (c : Config) (S idx : Nat) (row : FieldRow) (present : Bool)
    (rd : Nat → Word) (cur : Nat) (x : ContextRec) (e : ErrorOutcome) :
    walkRow c S idx row present rd cur x = .error e ↔
      present = true ∧ 0 < row.dec.width ∧ S < cur + row.dec.width ∧
        e = .truncatedField (BitVec.ofNat 6 idx) (BitVec.ofNat 17 cur) := by
  unfold walkRow
  cases present
  · simp
  · simp only [if_true, true_and]
    split
    · rename_i h
      simp [h.1, h.2, eq_comm]
    · rename_i h
      constructor
      · intro e'; cases e'
      · rintro ⟨h1, h2, -⟩
        exact absurd ⟨h1, h2⟩ h

/-- A present row that fits is decoded at the cursor, which moves past it. -/
theorem walkRow_present (c : Config) (S idx : Nat) (row : FieldRow) (rd : Nat → Word) (cur : Nat)
    (x : ContextRec) (h : row.dec.width = 0 ∨ cur + row.dec.width ≤ S) :
    walkRow c S idx row true rd cur x =
      .ok (x.set row.name (some (decodeValue c row.dec fun k => rd (cur + k))), cur + row.dec.width) := by
  unfold walkRow
  rw [if_pos rfl, if_neg (by omega)]

/-- An absent row clears its member; the cursor moves only over a skipped geolocation slot. -/
theorem walkRow_absent (c : Config) (S idx : Nat) (row : FieldRow) (rd : Nat → Word) (cur : Nat)
    (x : ContextRec) :
    walkRow c S idx row false rd cur x = .ok (x.set row.name none, cur + skipWords c row) := rfl

/-- The instance the machine runs skips nothing (R245, value false). -/
@[simp] theorem skipWords_phpc (row : FieldRow) : skipWords Config.phpc row = 0 := by
  simp [skipWords, Config.phpc]

/-- The walk fails only with a truncated field. -/
theorem walk_eq_error {c : Config} {S : Nat} {ind : Word} {rd : Nat → Word} {rows : List FieldRow}
    {idx cur : Nat} {x : ContextRec} {e : ErrorOutcome}
    (h : walk c S ind rd idx rows cur x = .error e) : ∃ i k, e = .truncatedField i k := by
  induction rows generalizing idx cur x with
  | nil => cases h
  | cons r rows ih =>
    rw [walk] at h
    split at h
    · rename_i he
      cases h
      exact ⟨_, _, ((walkRow_eq_error_iff ..).mp he).2.2.2⟩
    · exact ih h

/-! ### The caller's actions and the step -/

/-- A load that goes on has written IBUF and N_IN and nothing else. -/
theorem transportLoad_eq_next_iff (ws : List (BitVec 16 × Word)) (n : BitVec 17) (s t : State) :
    transportLoad Config.phpc ws n s = .next t ↔
      n.toNat ≤ 65536 ∧ { s with ibuf := loadWords s.ibuf ws, nIn := n } = t := by
  have hw : ws.all (fun p => decide (p.1.toNat < Config.phpc.bufWords)) = true :=
    List.all_eq_true.mpr fun p _ => decide_eq_true p.1.isLt
  by_cases h : n.toNat ≤ Config.phpc.bufWords
  · rw [transportLoad, if_pos ⟨h, hw⟩]
    exact Iff.intro (fun e => ⟨h, Host.Outcome.next.inj e⟩) (fun e => congrArg _ e.2)
  · rw [transportLoad, if_neg fun e => h e.1]
    exact Iff.intro (fun e => nomatch e) (fun e => absurd e.1 h)

/-- A host record write goes on when it names only places that the instance has. -/
theorem hostRecord_eq_next_iff (c : Config) (ws : List HostWrite) (s t : State) :
    hostRecord c ws s = .next t ↔ (∀ w ∈ ws, hostWriteOk c w = true) ∧ hostRecordWrite ws s = t := by
  unfold hostRecord
  split
  · rename_i h
    rw [List.all_eq_true] at h
    exact ⟨fun e => ⟨h, Host.Outcome.next.inj e⟩, fun e => congrArg _ e.2⟩
  · rename_i h
    rw [List.all_eq_true] at h
    exact ⟨fun e => (nomatch e), fun e => absurd e.1 h⟩

theorem loadWords_append (m : Memory 32) (l l' : List (BitVec 16 × Word)) :
    loadWords m (l ++ l') = loadWords (loadWords m l) l' := by
  induction l generalizing m with
  | nil => rfl
  | cons p l ih => exact ih _

/-- A load leaves the words it does not name alone. -/
theorem read_loadWords_of_ne (m : Memory 32) (l : List (BitVec 16 × Word)) (a : Nat)
    (h : ∀ p ∈ l, p.1.toNat ≠ a) :
    (loadWords m l).read Config.freeIbuf a = m.read Config.freeIbuf a := by
  induction l generalizing m with
  | nil => rfl
  | cons p l ih =>
    rw [loadWords, ih _ fun q hq => h q (List.mem_cons_of_mem _ hq), Memory.read_write_of_ne]
    exact (h p List.mem_cons_self).symm

/-- One host write changes members of REC, an entry of RAWIQ or NSAMP. -/
theorem hostWriteOne_frame (s : State) (w : HostWrite) :
    hostWriteOne s w = { s with record := (hostWriteOne s w).record,
                                rawiq := (hostWriteOne s w).rawiq,
                                nsamp := (hostWriteOne s w).nsamp } := by
  cases w <;> rfl

theorem hostRecordWrite_append (l l' : List HostWrite) (s : State) :
    hostRecordWrite (l ++ l') s = hostRecordWrite l' (hostRecordWrite l s) := by
  induction l generalizing s with
  | nil => rfl
  | cons p l ih => exact ih _

/-- A host record write keeps the canonical form of RAWIQ. -/
theorem wf_hostWriteOne (s : State) (w : HostWrite) (h : s.rawiq.wf 131072 = true) :
    (hostWriteOne s w).rawiq.wf 131072 = true := by
  cases w <;> first | exact h | exact Memory.wf_write _ (BitVec.isLt _) h

/-- What a step can do: nothing, when the caller does nothing; else the caller's first action. -/
theorem step_cases (s : State) :
    (s.pending = [] ∧ step s = .next s) ∨
      ∃ a rest, s.pending = a :: rest ∧
        step s = runAction Config.phpc exec a { s with pending := rest } := by
  unfold step runPending
  cases h : s.pending with
  | nil => exact .inl ⟨rfl, rfl⟩
  | cons a rest => exact .inr ⟨a, rest, rfl, rfl⟩

/-- A fetched instruction that goes on is one that the decoder gives and that runs. -/
theorem runFetch_eq_next_iff (c : Config) (run : Instr → State → Host.Outcome State Fault Refusal) (f : Fetch)
    (s t : State) : runFetch c run f s = .next t ↔ ∃ i, decodeWith c f = .ok i ∧ run i s = .next t := by
  unfold runFetch
  cases h : decodeWith c f with
  | ok i => simp
  | error e => simp

/-! ### The scale factor -/

/-- What the search finds, for a `below` that fails from some number on: the greatest number in reach. -/
theorem greatestBelow_spec (below : Nat → Bool) (hmono : ∀ a b, a ≤ b → below b = true → below a = true)
    (k acc : Nat) (hacc : below acc = true) :
    below (greatestBelow below k acc) = true ∧ acc ≤ greatestBelow below k acc ∧
      ∀ b, greatestBelow below k acc < b → b < acc + 2 ^ k → below b = false := by
  induction k generalizing acc with
  | zero => exact ⟨hacc, le_rfl, fun b h1 h2 => absurd h1 (by simp only [greatestBelow]; omega)⟩
  | succ k ih =>
    rw [greatestBelow]
    split
    · rename_i h
      obtain ⟨h1, h2, h3⟩ := ih (acc + 2 ^ k) h
      exact ⟨h1, (Nat.le_add_right _ _).trans h2, fun b hb hb' => h3 b hb (by rw [Nat.pow_succ] at hb'; omega)⟩
    · rename_i h
      obtain ⟨h1, h2, h3⟩ := ih acc hacc
      refine ⟨h1, h2, fun b hb hb' => ?_⟩
      by_cases hlt : b < acc + 2 ^ k
      · exact h3 b hb hlt
      · cases hbb : below b
        · rfl
        · exact absurd (hmono _ _ (Nat.le_of_not_lt hlt) hbb) h

/-- What the comparison compares, in the reals. -/
theorem comparePow10_eq_compare (neg : Bool) (n d m : Nat) (e : Int) (hd : 0 < d) :
    comparePow10 neg n d m e =
      compare ((m : ℝ) * 2 ^ e) ((10 : ℝ) ^ ((if neg then -(n : ℝ) else n) / d)) := by
  have hd' : (d : ℝ) ≠ 0 := by positivity
  have key : ∀ x y : ℝ, 0 ≤ x → 0 ≤ y → compare (x ^ d) (y ^ d) = compare x y := by
    intro x y hx hy
    rcases lt_trichotomy x y with h | h | h
    · rw [compare_lt_iff_lt.mpr h, compare_lt_iff_lt.mpr (pow_lt_pow_left₀ h hx hd.ne')]
    · rw [h, compare_eq_iff_eq.mpr rfl, compare_eq_iff_eq.mpr rfl]
    · rw [compare_gt_iff_gt.mpr h, compare_gt_iff_gt.mpr (pow_lt_pow_left₀ h hy hd.ne')]
  have mul : ∀ (x y z : ℝ), 0 < z → compare (x * z) (y * z) = compare x y := by
    intro x y z hz
    rcases lt_trichotomy x y with h | h | h
    · rw [compare_lt_iff_lt.mpr h, compare_lt_iff_lt.mpr (mul_lt_mul_of_pos_right h hz)]
    · rw [h, compare_eq_iff_eq.mpr rfl, compare_eq_iff_eq.mpr rfl]
    · rw [compare_gt_iff_gt.mpr h, compare_gt_iff_gt.mpr (mul_lt_mul_of_pos_right h hz)]
  have cast : ∀ a b : Nat, compare a b = compare (a : ℝ) (b : ℝ) := by
    intro a b
    rcases lt_trichotomy a b with h | h | h
    · rw [compare_lt_iff_lt.mpr h, compare_lt_iff_lt.mpr (Nat.cast_lt.mpr h)]
    · rw [h, compare_eq_iff_eq.mpr rfl, compare_eq_iff_eq.mpr rfl]
    · rw [compare_gt_iff_gt.mpr h, compare_gt_iff_gt.mpr (Nat.cast_lt.mpr h)]
  have hpow : ((10 : ℝ) ^ ((if neg then -(n : ℝ) else n) / d)) ^ d =
      10 ^ (if neg then -(n : ℝ) else n) := by
    rw [← Real.rpow_natCast, ← Real.rpow_mul (by norm_num), div_mul_cancel₀ _ hd']
  have he : (2 : ℝ) ^ e * 2 ^ (-e).toNat = 2 ^ e.toNat := by
    rw [← zpow_natCast, ← zpow_natCast, ← zpow_add₀ (by norm_num)]
    congr 1
    omega
  rw [← key _ _ (by positivity) (by positivity), hpow, comparePow10, cast]
  refine Eq.trans ?_ (mul _ _ ((2 : ℝ) ^ ((-e).toNat * d) * (if neg then 10 ^ n else 1))
    (by split <;> positivity))
  congr 1
  · push_cast
    rw [mul_pow, pow_mul, pow_mul, ← he, mul_pow]
    ring
  · push_cast
    cases neg
    · simp [mul_comm]
    · have : (10 : ℝ) ^ (-(n : ℝ)) * 10 ^ n = 1 := by
        rw [Real.rpow_neg (by norm_num), Real.rpow_natCast]
        exact inv_mul_cancel₀ (by positivity)
      simp only [if_true, mul_one]
      rw [mul_comm ((2 : ℝ) ^ _), ← mul_assoc, this, one_mul]

end Sys2Proof.Machine
end

