-- ==== Sys2Proof/Laws/PerInstr.lean ====
section
/-! SUPPORT. The family EncodesItsRow: what the encoder writes for an instruction carries the format and the
fixed bits of the instruction's row of `spec/opcode_table.json`. One lemma per constructor. -/

namespace Sys2Proof.Laws

open Sys2Proof

/-- A row of the table: its format (`none` is CMD, the command selector), its mask and its match. -/
structure TableRow where
  format : Option WireFormat
  mask   : Nat
  fixed  : Nat
deriving DecidableEq, Repr

/-- The rows of `spec/opcode_table.json`. -/
def tableRow : Instr → TableRow
  | .normalize => ⟨none, 0xF, 0x1⟩
  | .peek => ⟨none, 0xF, 0x2⟩
  | .decodeData _ _ => ⟨none, 0xF, 0x3⟩
  | .decodeContext _ => ⟨none, 0xF, 0x4⟩
  | .encodeData => ⟨none, 0xF, 0x5⟩
  | .encodeContext => ⟨none, 0xF, 0x6⟩
  | .toFixed _ _ _ => ⟨none, 0xF, 0x7⟩
  | .toFloat _ _ _ => ⟨none, 0xF, 0x8⟩
  | .packHeader => ⟨none, 0xF, 0x9⟩
  | .packTrailer => ⟨none, 0xF, 0xA⟩
  | .packIndicator => ⟨none, 0xF, 0xB⟩
  | .reservedOp0 => ⟨none, 0xF, 0x0⟩
  | .reservedOpC => ⟨none, 0xF, 0xC⟩
  | .reservedOpD => ⟨none, 0xF, 0xD⟩
  | .reservedOpE => ⟨none, 0xF, 0xE⟩
  | .reservedOpF => ⟨none, 0xF, 0xF⟩
  | .hdrData _ _ _ => ⟨some .hdr, 0xF0000000, 0x10000000⟩
  | .hdrContext _ _ _ => ⟨some .hdr, 0xF0000000, 0x40000000⟩
  | .iq _ _ => ⟨some .iq, 0x00000000, 0x00000000⟩
  | .trlCalibratedTime _ => ⟨some .trl, 0x80000000, 0x80000000⟩
  | .trlValidData _ => ⟨some .trl, 0x40000000, 0x40000000⟩
  | .trlReferenceLock _ => ⟨some .trl, 0x20000000, 0x20000000⟩
  | .trlOverRange _ => ⟨some .trl, 0x02000000, 0x02000000⟩
  | .trlSampleLoss _ => ⟨some .trl, 0x01000000, 0x01000000⟩
  | .trlCtxCount _ => ⟨some .trl, 0x00000080, 0x00000080⟩
  | .cifChangeIndicator => ⟨some .cif, 0x80000000, 0x80000000⟩
  | .cifReferencePointId => ⟨some .cif, 0x40000000, 0x40000000⟩
  | .cifBandwidth => ⟨some .cif, 0x20000000, 0x20000000⟩
  | .cifIfRefFreq => ⟨some .cif, 0x10000000, 0x10000000⟩
  | .cifRfRefFreq => ⟨some .cif, 0x08000000, 0x08000000⟩
  | .cifRfRefFreqOffset => ⟨some .cif, 0x04000000, 0x04000000⟩
  | .cifIfBandOffset => ⟨some .cif, 0x02000000, 0x02000000⟩
  | .cifReferenceLevel => ⟨some .cif, 0x01000000, 0x01000000⟩
  | .cifGain => ⟨some .cif, 0x00800000, 0x00800000⟩
  | .cifOverRangeCount => ⟨some .cif, 0x00400000, 0x00400000⟩
  | .cifSampleRate => ⟨some .cif, 0x00200000, 0x00200000⟩
  | .cifTimestampAdjustment => ⟨some .cif, 0x00100000, 0x00100000⟩
  | .cifTimestampCalTime => ⟨some .cif, 0x00080000, 0x00080000⟩
  | .cifTemperature => ⟨some .cif, 0x00040000, 0x00040000⟩
  | .cifDeviceId => ⟨some .cif, 0x00020000, 0x00020000⟩
  | .cifStateEventIndicators => ⟨some .cif, 0x00010000, 0x00010000⟩
  | .cifDataPayloadFormat => ⟨some .cif, 0x00008000, 0x00008000⟩
  | .cifGeolocation => ⟨some .cif, 0x00004000, 0x00004000⟩

/-- A fetched form carries a row's format and fixed bits. -/
def CarriesRow (r : TableRow) : Fetch → Prop
  | .command c => r.format = none ∧ c.op &&& BitVec.ofNat 4 r.mask = BitVec.ofNat 4 r.fixed
  | .element f w => r.format = some f ∧ w &&& BitVec.ofNat 32 r.mask = BitVec.ofNat 32 r.fixed

/-- The encoder's output carries the row of the instruction. -/
def EncodesItsRow.Statement (i : Instr) : Prop := CarriesRow (tableRow i) (encode i)

/-- The type code is the only part of a header word under the row's mask. -/
theorem header_type_bits (type : BitVec 4) (flags : BitVec 8) (count : BitVec 4) (size : BitVec 16) :
    Machine.packHeaderWord Config.phpc type flags count size &&& 0xF0000000#32 =
      type.setWidth 32 <<< 28 := by
  apply BitVec.eq_of_getLsbD_eq
  intro i hi
  simp only [Machine.packHeaderWord, Config.phpc, BitVec.getLsbD_and, BitVec.getLsbD_or,
    BitVec.getLsbD_shiftLeft, BitVec.getLsbD_setWidth]
  by_cases h : i < 28
  · have hm : (0xF0000000#32).getLsbD i = false := by
      interval_cases i <;> decide
    simp [hm, h]
  · have hf : flags.getLsbD (i - 20) = false := BitVec.getLsbD_of_ge _ _ (by omega)
    have hc : count.getLsbD (i - 16) = false := BitVec.getLsbD_of_ge _ _ (by omega)
    have hm : (0xF0000000#32).getLsbD i = true := by
      interval_cases i <;> decide
    have hs' : size.getLsbD i = false := BitVec.getLsbD_of_ge _ _ (by omega)
    have hi' : i - 28 < 32 := by omega
    simp [hm, h, hf, hc, hs', hi, hi']

theorem EncodesItsRow.normalize : EncodesItsRow.Statement .normalize :=
  ⟨rfl, by decide⟩

theorem EncodesItsRow.peek : EncodesItsRow.Statement .peek :=
  ⟨rfl, by decide⟩

theorem EncodesItsRow.decodeData (S : BitVec 16) (ref : F64) : EncodesItsRow.Statement (.decodeData S ref) :=
  ⟨rfl, show (0x3#4 &&& 0xF#4) = 0x3#4 by decide⟩

theorem EncodesItsRow.decodeContext (S : BitVec 16) : EncodesItsRow.Statement (.decodeContext S) :=
  ⟨rfl, show (0x4#4 &&& 0xF#4) = 0x4#4 by decide⟩

theorem EncodesItsRow.encodeData : EncodesItsRow.Statement .encodeData :=
  ⟨rfl, by decide⟩

theorem EncodesItsRow.encodeContext : EncodesItsRow.Statement .encodeContext :=
  ⟨rfl, by decide⟩

theorem EncodesItsRow.toFixed (fxval : F64) (frac : BitVec 6) (width : BitVec 2) : EncodesItsRow.Statement (.toFixed fxval frac width) :=
  ⟨rfl, show (0x7#4 &&& 0xF#4) = 0x7#4 by decide⟩

theorem EncodesItsRow.toFloat (fxint : BitVec 64) (frac : BitVec 6) (width : BitVec 2) : EncodesItsRow.Statement (.toFloat fxint frac width) :=
  ⟨rfl, show (0x8#4 &&& 0xF#4) = 0x8#4 by decide⟩

theorem EncodesItsRow.packHeader : EncodesItsRow.Statement .packHeader :=
  ⟨rfl, by decide⟩

theorem EncodesItsRow.packTrailer : EncodesItsRow.Statement .packTrailer :=
  ⟨rfl, by decide⟩

theorem EncodesItsRow.packIndicator : EncodesItsRow.Statement .packIndicator :=
  ⟨rfl, by decide⟩

theorem EncodesItsRow.reservedOp0 : EncodesItsRow.Statement .reservedOp0 :=
  ⟨rfl, by decide⟩

theorem EncodesItsRow.reservedOpC : EncodesItsRow.Statement .reservedOpC :=
  ⟨rfl, by decide⟩

theorem EncodesItsRow.reservedOpD : EncodesItsRow.Statement .reservedOpD :=
  ⟨rfl, by decide⟩

theorem EncodesItsRow.reservedOpE : EncodesItsRow.Statement .reservedOpE :=
  ⟨rfl, by decide⟩

theorem EncodesItsRow.reservedOpF : EncodesItsRow.Statement .reservedOpF :=
  ⟨rfl, by decide⟩

theorem EncodesItsRow.hdrData (hdrFlags : BitVec 8) (count : BitVec 4) (size : BitVec 16) : EncodesItsRow.Statement (.hdrData hdrFlags count size) :=
  ⟨rfl, (header_type_bits _ _ _ _).trans (show (0x1#4).setWidth 32 <<< 28 = 0x10000000#32 by decide)⟩

theorem EncodesItsRow.hdrContext (hdrFlags : BitVec 8) (count : BitVec 4) (size : BitVec 16) : EncodesItsRow.Statement (.hdrContext hdrFlags count size) :=
  ⟨rfl, (header_type_bits _ _ _ _).trans (show (0x4#4).setWidth 32 <<< 28 = 0x40000000#32 by decide)⟩

theorem EncodesItsRow.iq (i : Sample) (q : Sample) : EncodesItsRow.Statement (.iq i q) :=
  ⟨rfl, BitVec.and_zero⟩

theorem EncodesItsRow.trlCalibratedTime (indicator : Bool) : EncodesItsRow.Statement (.trlCalibratedTime indicator) :=
  ⟨rfl, by cases indicator <;> decide⟩

theorem EncodesItsRow.trlValidData (indicator : Bool) : EncodesItsRow.Statement (.trlValidData indicator) :=
  ⟨rfl, by cases indicator <;> decide⟩

theorem EncodesItsRow.trlReferenceLock (indicator : Bool) : EncodesItsRow.Statement (.trlReferenceLock indicator) :=
  ⟨rfl, by cases indicator <;> decide⟩

theorem EncodesItsRow.trlOverRange (indicator : Bool) : EncodesItsRow.Statement (.trlOverRange indicator) :=
  ⟨rfl, by cases indicator <;> decide⟩

theorem EncodesItsRow.trlSampleLoss (indicator : Bool) : EncodesItsRow.Statement (.trlSampleLoss indicator) :=
  ⟨rfl, by cases indicator <;> decide⟩

theorem EncodesItsRow.trlCtxCount (count : BitVec 6) : EncodesItsRow.Statement (.trlCtxCount count) :=
  ⟨rfl, by revert count; decide⟩

theorem EncodesItsRow.cifChangeIndicator : EncodesItsRow.Statement .cifChangeIndicator :=
  ⟨rfl, by decide⟩

theorem EncodesItsRow.cifReferencePointId : EncodesItsRow.Statement .cifReferencePointId :=
  ⟨rfl, by decide⟩

theorem EncodesItsRow.cifBandwidth : EncodesItsRow.Statement .cifBandwidth :=
  ⟨rfl, by decide⟩

theorem EncodesItsRow.cifIfRefFreq : EncodesItsRow.Statement .cifIfRefFreq :=
  ⟨rfl, by decide⟩

theorem EncodesItsRow.cifRfRefFreq : EncodesItsRow.Statement .cifRfRefFreq :=
  ⟨rfl, by decide⟩

theorem EncodesItsRow.cifRfRefFreqOffset : EncodesItsRow.Statement .cifRfRefFreqOffset :=
  ⟨rfl, by decide⟩

theorem EncodesItsRow.cifIfBandOffset : EncodesItsRow.Statement .cifIfBandOffset :=
  ⟨rfl, by decide⟩

theorem EncodesItsRow.cifReferenceLevel : EncodesItsRow.Statement .cifReferenceLevel :=
  ⟨rfl, by decide⟩

theorem EncodesItsRow.cifGain : EncodesItsRow.Statement .cifGain :=
  ⟨rfl, by decide⟩

theorem EncodesItsRow.cifOverRangeCount : EncodesItsRow.Statement .cifOverRangeCount :=
  ⟨rfl, by decide⟩

theorem EncodesItsRow.cifSampleRate : EncodesItsRow.Statement .cifSampleRate :=
  ⟨rfl, by decide⟩

theorem EncodesItsRow.cifTimestampAdjustment : EncodesItsRow.Statement .cifTimestampAdjustment :=
  ⟨rfl, by decide⟩

theorem EncodesItsRow.cifTimestampCalTime : EncodesItsRow.Statement .cifTimestampCalTime :=
  ⟨rfl, by decide⟩

theorem EncodesItsRow.cifTemperature : EncodesItsRow.Statement .cifTemperature :=
  ⟨rfl, by decide⟩

theorem EncodesItsRow.cifDeviceId : EncodesItsRow.Statement .cifDeviceId :=
  ⟨rfl, by decide⟩

theorem EncodesItsRow.cifStateEventIndicators : EncodesItsRow.Statement .cifStateEventIndicators :=
  ⟨rfl, by decide⟩

theorem EncodesItsRow.cifDataPayloadFormat : EncodesItsRow.Statement .cifDataPayloadFormat :=
  ⟨rfl, by decide⟩

theorem EncodesItsRow.cifGeolocation : EncodesItsRow.Statement .cifGeolocation :=
  ⟨rfl, by decide⟩

end Sys2Proof.Laws
end

