-- ==== Sys2Proof/Tests/Slice0.lean ====
section
/-! SUPPORT. Tests. Expected values are the spec's: the words are written out from its encodings
(`spec/30_encoding.md`), the results are the vectors of `spec/95_test_vectors.md` (S1, V20, ...), or worked by
hand from the rule named. The `witness_` theorems show, for each statement with hypotheses, a state and operands
that meet them. -/

namespace Sys2Proof.Tests

-- one after another: checked in parallel, the kernel evaluations need more thread stacks than memory allows
set_option Elab.async false

open Sys2Proof Sys2Proof.Machine

/-! ## Helpers -/

/-- A machine after reset into which the transport has loaded these normalized words. -/
def loaded (ws : List Word) : State :=
  { State.reset with
    ibuf := ⟨0, ws.zipIdx.map fun p => (p.2, bswap32 p.1)⟩
    nIn  := BitVec.ofNat 17 ws.length }

/-- A machine after reset whose host has written this record. -/
def recorded (pro : Prologue) (trl : Trailer) (ctx : ContextRec) : State :=
  { State.reset with record := ⟨.none, pro, trl, ctx⟩ }

/-- A machine after reset in which the caller does this next. -/
def calling (as : List Action) : State := { State.reset with pending := as }

/-- A property of the next state, if there is one. -/
def after (o : Host.Outcome State Fault Refusal) (p : State → Bool) : Bool :=
  match o with
  | .next t => p t
  | .fault _ => false
  | .refused _ => false

/-- STATUS, ERRINFO and CUR of a state. -/
def outcomeIs (status : BitVec 5) (errinfo : BitVec 32) (cur : BitVec 17) (t : State) : Bool :=
  t.status == status && t.errinfo == errinfo && t.cur == cur

/-- OBUF from index 0 on, normalized. -/
def obufIs (ws : List Word) (t : State) : Bool :=
  ws.zipIdx.all fun p => t.obufAt p.2 == bswap32 p.1

/-- The prologue of the spec's scenarios: all zero. -/
def zeroPro : Prologue := ⟨0, 0, 0, 0, 0, 0, 0⟩

/-- The context members of scenario S3: referenceLevel -10.0, gain 10.0. -/
def ctxS3 : ContextRec :=
  (ContextRec.empty.set .referenceLevel (some (.float 0xC024000000000000))).set .gain
    (some (.float 0x4024000000000000))

/-- The packet of scenario S2. -/
def packetS2 : List Word := [0x10000007, 0, 0, 0, 0, 0x4000C000, 0x40040000]

/-- The packet of scenario S3. -/
def packetS3 : List Word := [0x40000008, 0, 0, 0, 0, 0x01800000, 0x0000FB00, 0x00000500]

/-! ## Well-formedness: each check refuses an ill-formed term -/

theorem test_wf_refuses_toFixed_width_3 : (Instr.toFixed 0 7 3).wf = false := by decide
theorem test_wf_refuses_toFloat_width_3 : (Instr.toFloat 0 7 3).wf = false := by decide
theorem test_wf_takes_width_2 : (Instr.toFixed 0 7 2).wf = true := by decide

/-- R210: a bit used twice, a bit below 8, a name used twice, four pairs. -/
theorem test_trailerPairsOk :
    trailerPairsOk Config.defaultTrailerPairs = true ∧
    trailerPairsOk [⟨.calibratedTime, 31, 19⟩, ⟨.validData, 30, 19⟩, ⟨.referenceLock, 29, 17⟩,
      ⟨.overRange, 25, 13⟩, ⟨.sampleLoss, 24, 12⟩] = false ∧
    trailerPairsOk [⟨.calibratedTime, 31, 7⟩, ⟨.validData, 30, 18⟩, ⟨.referenceLock, 29, 17⟩,
      ⟨.overRange, 25, 13⟩, ⟨.sampleLoss, 24, 12⟩] = false ∧
    trailerPairsOk [⟨.validData, 31, 19⟩, ⟨.validData, 30, 18⟩, ⟨.referenceLock, 29, 17⟩,
      ⟨.overRange, 25, 13⟩, ⟨.sampleLoss, 24, 12⟩] = false ∧
    trailerPairsOk [⟨.calibratedTime, 31, 19⟩, ⟨.validData, 30, 18⟩, ⟨.referenceLock, 29, 17⟩,
      ⟨.overRange, 25, 13⟩] = false := by decide

/-- R241: a bit used twice, a bit outside the word, two rows named geolocation. -/
theorem test_fieldTableOk :
    fieldTableOk Config.defaultFieldTable = true ∧
    fieldTableOk [⟨.changeIndicator, 31, .none⟩, ⟨.geolocation, 31, .geo⟩] = false ∧
    fieldTableOk [⟨.changeIndicator, 32, .none⟩] = false ∧
    fieldTableOk [⟨.geolocation, 31, .geo⟩, ⟨.geolocation, 30, .raw1⟩] = false ∧
    fieldTableOk [⟨.bandwidth, 31, .raw2⟩, ⟨.other 0, 2, .geo⟩, ⟨.geolocation, 0, .fx16 3⟩] = true := by
  decide

/-- R8 FLOAT_FMT, OPCODES: a format without fraction, one of 65 bits, binary32; one selector for every operation. -/
theorem test_floatFmt_opcodes_ok :
    floatFmtOk ⟨11, 0⟩ = false ∧ floatFmtOk ⟨12, 52⟩ = false ∧ floatFmtOk ⟨8, 23⟩ = true ∧
    opcodesOk (fun _ => 1) = false ∧ opcodesOk Config.defaultOpcodes = true := by decide

/-- R8: header fields that overlap; equal type codes; the count field over its enable bit. -/
theorem test_config_wf :
    Config.phpc.wf = true ∧
    headerPositionsOk { Config.phpc with countLsb := 15 } = false ∧
    { Config.phpc with typeContext := 1 }.wf = false ∧
    { Config.phpc with trailerCountLsb := 2 }.wf = false ∧
    { Config.phpc with bufWords := 65534 }.wf = false := by decide +kernel

/-! ## Decoding: one word per constructor, written out from the spec's tables -/

/-- R81: the selectors 0x1 to 0xB; R80: the operands of the tuple, in its order (op, S, ref, fxval, fxint,
frac, width). -/
theorem test_decode_commands :
    decode (.command ⟨0x1, 0, 0, 0, 0, 0, 0⟩) = .ok .normalize ∧
    decode (.command ⟨0x2, 0, 0, 0, 0, 0, 0⟩) = .ok .peek ∧
    decode (.command ⟨0x3, 7, 0xC034000000000000, 0, 0, 0, 0⟩) =
      .ok (.decodeData 7 0xC034000000000000) ∧
    decode (.command ⟨0x4, 8, 0, 0, 0, 0, 0⟩) = .ok (.decodeContext 8) ∧
    decode (.command ⟨0x5, 0, 0, 0, 0, 0, 0⟩) = .ok .encodeData ∧
    decode (.command ⟨0x6, 0, 0, 0, 0, 0, 0⟩) = .ok .encodeContext ∧
    decode (.command ⟨0x7, 0, 0, 0xC024000000000000, 0, 7, 0⟩) =
      .ok (.toFixed 0xC024000000000000 7 0) ∧
    decode (.command ⟨0x8, 0, 0, 0, 0xFB00, 7, 1⟩) = .ok (.toFloat 0xFB00 7 1) ∧
    decode (.command ⟨0x9, 0, 0, 0, 0, 0, 0⟩) = .ok .packHeader ∧
    decode (.command ⟨0xA, 0, 0, 0, 0, 0, 0⟩) = .ok .packTrailer ∧
    decode (.command ⟨0xB, 0, 0, 0, 0, 0, 0⟩) = .ok .packIndicator :=
  ⟨rfl, rfl, rfl, rfl, rfl, rfl, rfl, rfl, rfl, rfl, rfl⟩

/-- R82: the reserved selectors and the reserved width code. -/
theorem test_decode_reserved :
    decode (.command ⟨0x0, 0, 0, 0, 0, 0, 0⟩) = .ok .reservedOp0 ∧
    decode (.command ⟨0xC, 0, 0, 0, 0, 0, 0⟩) = .ok .reservedOpC ∧
    decode (.command ⟨0xD, 0, 0, 0, 0, 0, 0⟩) = .ok .reservedOpD ∧
    decode (.command ⟨0xE, 0, 0, 0, 0, 0, 0⟩) = .ok .reservedOpE ∧
    decode (.command ⟨0xF, 0, 0, 0, 0, 0, 0⟩) = .ok .reservedOpF ∧
    decode (.command ⟨0x7, 0, 0, 0, 0, 7, 3⟩) = .error .reservedWidth ∧
    decode (.command ⟨0x8, 0, 0, 0, 0, 7, 3⟩) = .error .reservedWidth :=
  ⟨rfl, rfl, rfl, rfl, rfl, rfl, rfl⟩

/-- R83, R84: type in [31:28], flags in [27:20], count in [19:16], size in [15:0] (V36); other type codes name
no row. -/
theorem test_decode_header_words :
    decode (.element .hdr 0x1A5C0007) = .ok (.hdrData 0xA5 0xC 7) ∧
    decode (.element .hdr 0x400F002A) = .ok (.hdrContext 0x00 0xF 42) ∧
    decode (.element .hdr 0x70000006) = .error .noHeaderRow := ⟨rfl, rfl, rfl⟩

/-- R89: I in the high half, Q in the low half (V65). -/
theorem test_decode_payload_word :
    decode (.element .iq 0x4000C000) = .ok (.iq 16384 (-16384)) := rfl

/-- R90, R210: the enable bits 31, 30, 29, 25, 24 with the indicator bits 19, 18, 17, 13, 12, and the count
[5:0] gated by bit 7. -/
theorem test_decode_trailer_words :
    decode (.element .trl 0x80080000) = .ok (.trlCalibratedTime true) ∧
    decode (.element .trl 0x40040000) = .ok (.trlValidData true) ∧
    decode (.element .trl 0x20000000) = .ok (.trlReferenceLock false) ∧
    decode (.element .trl 0x02002000) = .ok (.trlOverRange true) ∧
    decode (.element .trl 0x01001000) = .ok (.trlSampleLoss true) ∧
    decode (.element .trl 0x00000085) = .ok (.trlCtxCount 5) ∧
    decode (.element .trl 0x000E303F) = .error .noTrailerRow :=
  ⟨rfl, rfl, rfl, rfl, rfl, rfl, rfl⟩

/-- R93, R242: bits 31 down to 14 in table order; the bits below name no row. -/
theorem test_decode_indicator_words :
    decode (.element .cif 0x80000000) = .ok .cifChangeIndicator ∧
    decode (.element .cif 0x40000000) = .ok .cifReferencePointId ∧
    decode (.element .cif 0x20000000) = .ok .cifBandwidth ∧
    decode (.element .cif 0x10000000) = .ok .cifIfRefFreq ∧
    decode (.element .cif 0x08000000) = .ok .cifRfRefFreq ∧
    decode (.element .cif 0x04000000) = .ok .cifRfRefFreqOffset ∧
    decode (.element .cif 0x02000000) = .ok .cifIfBandOffset ∧
    decode (.element .cif 0x01000000) = .ok .cifReferenceLevel ∧
    decode (.element .cif 0x00800000) = .ok .cifGain ∧
    decode (.element .cif 0x00400000) = .ok .cifOverRangeCount ∧
    decode (.element .cif 0x00200000) = .ok .cifSampleRate ∧
    decode (.element .cif 0x00100000) = .ok .cifTimestampAdjustment ∧
    decode (.element .cif 0x00080000) = .ok .cifTimestampCalTime ∧
    decode (.element .cif 0x00040000) = .ok .cifTemperature ∧
    decode (.element .cif 0x00020000) = .ok .cifDeviceId ∧
    decode (.element .cif 0x00010000) = .ok .cifStateEventIndicators ∧
    decode (.element .cif 0x00008000) = .ok .cifDataPayloadFormat ∧
    decode (.element .cif 0x00004000) = .ok .cifGeolocation ∧
    decode (.element .cif 0x00002001) = .error .noIndicatorRow :=
  ⟨rfl, rfl, rfl, rfl, rfl, rfl, rfl, rfl, rfl, rfl, rfl, rfl, rfl, rfl, rfl, rfl, rfl, rfl, rfl⟩

/-- The words of the opcode table, numbered as the table numbers them. -/
theorem test_decodeTableWord :
    decodeTableWord 8 0x2 = some .peek ∧
    decodeTableWord 8 0xC = some .reservedOpC ∧
    decodeTableWord 32 0x40000008 = some (.hdrContext 0 0 8) ∧
    decodeTableWord 32 0x01000000 = some (.trlSampleLoss false) ∧
    decodeTableWord 32 0x00004000 = some .cifGeolocation ∧
    decodeTableWord 32 0x00000000 = some (.iq 0 0) := ⟨rfl, rfl, rfl, rfl, rfl, rfl⟩

/-! ## Single steps on the spec's vectors -/

/-- V7: norm of two words; IBUF unchanged. -/
theorem test_normalize_V7 :
    after (exec .normalize (loaded [0x40000008, 0x01800000])) (fun t =>
      t.obufAt 0 == 0x40000008 && t.obufAt 1 == 0x01800000 && t.nOut == 2 &&
        outcomeIs 0x10 0 0 t && t.ibufAt 0 == 0x08000040) = true := by decide +kernel

/-- S1. -/
theorem test_peek_S1 :
    after (exec .peek (loaded [0x40000008])) (fun t =>
      t.ptype == .context && t.pcode == 4 && t.psize == 8 && outcomeIs 0x10 0 0 t) = true := by
  decide +kernel

/-- V34: PEEK of an empty buffer. -/
theorem test_peek_V34 : after (exec .peek (loaded [])) (outcomeIs 0x1B 0x00010000 0) = true := by
  decide +kernel

/-- S2: SCALED is 0.05 and -0.05. -/
theorem test_decodeData_S2 :
    after (exec (.decodeData 7 0xC034000000000000) (loaded packetS2)) (fun t =>
      outcomeIs 0x10 0 7 t && t.record.kind == .data && t.nsamp == 2 && t.rawiqAt 0 == 16384 &&
        t.rawiqAt 1 == -16384 && t.scaledAt 0 == 0x3FA999999999999A && t.scaledAt 1 == 0xBFA999999999999A &&
        t.record.trl == { Trailer.empty with validData := some true }) = true := by decide +kernel

/-- V69: a reference level that is a NaN: no error, the raw samples, and NaNs for both scaled samples. -/
theorem test_decodeData_V69 :
    after (exec (.decodeData 7 0x7FF8000000000000) (loaded packetS2)) (fun t =>
      outcomeIs 0x10 0 7 t && t.rawiqAt 0 == 16384 && t.rawiqAt 1 == -16384) = true ∧
    ∀ raw, floatIsNan .binary64 (scaleSample .binary64 raw (Config.phpc.refScale 0x7FF8000000000000)) = true := by
  refine ⟨by decide +kernel, fun raw => ?_⟩
  have h : Config.phpc.refScale 0x7FF8000000000000 = floatNan .binary64
      (Config.freeNan 0x7FF8000000000000 0x7FF8000000000000) := by
    rw [show Config.phpc.refScale = refScaleTaken .binary64 from rfl, refScaleTaken, if_pos (by decide +kernel)]
  rw [scaleSample, floatMul, h, floatIsNan_floatNan, Bool.or_true, if_pos rfl, floatIsNan_floatNan]

/-- V74: a context packet to the data decoder. -/
theorem test_decodeData_V74 :
    after (exec (.decodeData 8 0) (loaded packetS3)) (outcomeIs 0x11 0x14 0) = true := by
  decide +kernel

/-- S3: the record and the cursor. -/
theorem test_decodeContext_S3 :
    after (exec (.decodeContext 8) (loaded packetS3)) (fun t =>
      outcomeIs 0x10 0 8 t && t.record.kind == .context &&
        t.record.ctx == { ctxS3 with indicator := 0x01800000 }) = true := by decide +kernel

/-- P3, second packet: bandwidth announced, one word left. -/
theorem test_decodeContext_truncated :
    after (exec (.decodeContext 7)
      (loaded [0x40010007, 1, 2, 0, 0, 0x20000000, 0x00000001, 0x40020000]))
      (outcomeIs 0x12 0x00001802 6) = true := by decide +kernel

/-- The packet of S2 built from its record (P5: word 0 and word 6). -/
theorem test_encodeData_S2 :
    after (exec .encodeData
      { recorded zeroPro { Trailer.empty with validData := some true } ContextRec.empty with
        rawiq := ⟨0, [(0, 16384), (1, -16384)]⟩, nsamp := 2 })
      (fun t => obufIs packetS2 t && t.nOut == 7 && outcomeIs 0x10 0 0 t) = true := by decide +kernel

/-- V78: the size does not fit. -/
theorem test_encodeData_V78 :
    after (exec .encodeData { State.reset with nsamp := 131060 }) (outcomeIs 0x14 0x3C 0) = true := by
  decide +kernel

/-- The packet of S3 built from its record. -/
theorem test_encodeContext_S3 :
    after (exec .encodeContext (recorded zeroPro Trailer.empty ctxS3))
      (fun t => obufIs packetS3 t && t.nOut == 8 && outcomeIs 0x10 0 0 t) = true := by decide +kernel

/-- V59: the first row that does not convert is gain (a NaN), row 8. -/
theorem test_encodeContext_V59 :
    after (exec .encodeContext (recorded zeroPro Trailer.empty
      (ctxS3.set .gain (some (.float 0x7FF8000000000000))))) (outcomeIs 0x14 0x8 0) = true := by
  decide +kernel

/-- V20. -/
theorem test_toFixed_V20 :
    after (exec (.toFixed 0xC024000000000000 7 0) State.reset)
      (fun t => t.fxintOut == 0xFFFFFFFFFFFFFB00 && outcomeIs 0x10 0 0 t) = true := by decide +kernel

/-- V22: 256.0 does not fit 16 bits at 7 fractional bits. -/
theorem test_toFixed_V22 :
    after (exec (.toFixed 0x4070000000000000 7 0) State.reset) (outcomeIs 0x14 0x3F 0) = true := by
  decide +kernel

/-- V14: the bits above the width are ignored: -10.0. -/
theorem test_toFloat_V14 :
    after (exec (.toFloat 0xFFFFFFFFFFFFFB00 7 0) State.reset)
      (fun t => t.fxvalOut == 0xC024000000000000 && outcomeIs 0x10 0 0 t) = true := by decide +kernel

/-- V18: 2^53 + 1 is a tie that rounds to even: 2^33. -/
theorem test_toFloat_V18 :
    after (exec (.toFloat 0x0020000000000001 20 2) State.reset)
      (fun t => t.fxvalOut == 0x4200000000000000) = true := by decide +kernel

/-- V38. -/
theorem test_packHeader_V38 :
    after (exec .packHeader (recorded ⟨1, 0xA5, 0xC, 7, 0, 0, 0⟩ Trailer.empty ContextRec.empty))
      (fun t => t.packout == 0x1A5C0007) = true := by decide +kernel

/-- V64b: the record of V63c. -/
theorem test_packTrailer_V64b :
    after (exec .packTrailer (recorded zeroPro
      ⟨none, some true, some true, some false, none, some 1⟩ ContextRec.empty))
      (fun t => t.packout == 0x62060081) = true := by decide +kernel

/-- V59c. -/
theorem test_packIndicator_V59c :
    after (exec .packIndicator (recorded zeroPro Trailer.empty ctxS3))
      (fun t => t.packout == 0x01800000) = true := by decide +kernel

/-- R82: a reserved selector, fetched. -/
theorem test_reserved_refused :
    step (calling [.fetch (.command ⟨0xC, 0, 0, 0, 0, 0, 0⟩)]) =
      .refused (.reservedCommand 0xC) := rfl

/-- R50: a pair past the end of RAWIQ. -/
theorem test_iq_at_end :
    exec (.iq 1 2) { State.reset with nsamp := 131071 } = .fault .sampleStoreEnd := rfl

/-- R202: the pair of S2 appended. -/
theorem test_iq_appends :
    after (exec (.iq 16384 (-16384)) State.reset)
      (fun t => t.rawiqAt 0 == 16384 && t.rawiqAt 1 == -16384 && t.nsamp == 2) = true := by
  decide +kernel

/-- V45, words 11 and 12: rfRefFreq is 1 GHz, read at the cursor. -/
theorem test_cifRfRefFreq_V45 :
    after (exec .cifRfRefFreq (loaded [0x0003B9AC, 0xA0000000]))
      (fun t => t.record.ctx.get .rfRefFreq == some (.float 0x41CDCD6500000000) && t.cur == 2) = true := by
  decide +kernel

/-- V45, words 31 to 41: the geolocation block. -/
theorem test_cifGeolocation_V45 :
    after (exec .cifGeolocation (loaded [0x0F000000, 0x5F5E1000, 0x00000074, 0x6A528800, 0x09600000,
      0xE1700000, 0x00001920, 0x000A4000, 0x16800000, 0x0B400000, 0xFCA00000]))
      (fun t => t.cur == 11 && t.record.ctx.get .geolocation == some (.geo
        ⟨0x0F000000, 0x5F5E1000, 0x000000746A528800, 0x4042C00000000000, 0xC05E900000000000,
          0x4059200000000000, 0x4024800000000000, 0x4056800000000000, 0x4046800000000000,
          0xC02B000000000000⟩)) = true := by decide +kernel

/-- V49: the upper half of a 16-bit field is ignored: 25.5. -/
theorem test_cifTemperature_V49 :
    after (exec .cifTemperature (loaded [0xABCD0660]))
      (fun t => t.record.ctx.get .temperature == some (.float 0x4039800000000000)) = true := by decide +kernel

/-- R347, R241: a host write to a member that the default table does not name, and one of another type. -/
theorem test_hostWrite_refused :
    step (calling [.hostWrite [.ctxField (.other 0) none]]) = .refused .notAMember ∧
      step (calling [.hostWrite [.ctxField .gain (some (.word 0))]]) = .refused .notAMember := ⟨rfl, rfl⟩

/-- R347: a transport load, through `step`. -/
theorem test_load_V30 :
    after (step (calling [.load [(0, 0x07000010)] 1]))
      (fun t => t.nIn == 1 && t.ibufAt 0 == 0x07000010 && t.pending == []) = true := by decide +kernel

/-- R182: DECODE_AUTO on the packet of P1 is PEEK, then DECODE_CONTEXT 8. -/
theorem test_decodeAuto_P1 :
    after (decodeAuto 0 (loaded packetS3))
      (fun t => outcomeIs 0x10 0 8 t && t.record.kind == .context) = true := by decide +kernel

/-- V66: scaling by 1.0. -/
theorem test_scaleSample_V66 :
    scaleSample .binary64 (-32768) 0x3FF0000000000000 = 0xBFF0000000000000 ∧
      scaleSample .binary64 32767 0x3FF0000000000000 = 0x3FEFFFC000000000 := by decide +kernel

/-- R206, V67, V68: the factors for -20, 0 and 20 dBm, and V68's sample. -/
theorem test_refScale :
    Config.phpc.refScale 0xC034000000000000 = 0x3FB999999999999A ∧ Config.phpc.refScale 0 = 0x3FF0000000000000 ∧
      Config.phpc.refScale 0x4034000000000000 = 0x4024000000000000 ∧
      scaleSample .binary64 32767 0x3FB999999999999A = 0x3FB9996666666667 := by decide +kernel

/-- R8 FLOAT_FMT: the word of V14 under binary32: -10.0, and back. -/
theorem test_binary32 :
    toFloat ⟨8, 23⟩ (-1280) 7 = 0xC1200000 ∧ toFixed ⟨8, 23⟩ .nearestEven 0xC1200000 7 16 = some (-1280) ∧
      toFixed ⟨8, 23⟩ .nearestEven 0x7F800000 7 16 = none := by decide +kernel

/-- R8 OPCODES: under another map, 0xF is PEEK and the selector 0x2 is no operation's. -/
theorem test_other_opcodes :
    let c := { Config.phpc with opcodes := fun op => if op = .peek then 0xF else Config.defaultOpcodes op }
    decodeWith c (.command (plainCommand 0xF)) = .ok .peek ∧
      decodeWith c (.command (plainCommand 0x2)) = .error (.reservedSelector 0x2) := ⟨rfl, rfl⟩

/-- R241: another table: bandwidth as two verbatim words, and a member of R31's not: both read from one packet. -/
theorem test_other_table :
    let c := { Config.phpc with fieldTable := [⟨.bandwidth, 3, .raw2⟩, ⟨.other 0, 29, .fx16 7⟩] }
    after (stepWith c { loaded [0x40000009, 0, 0, 0, 0, 0x20000008, 5, 6, 0x0000FB00] with
        pending := [.fetch (.command { plainCommand 0x4 with S := 9 })] }) (fun t =>
      outcomeIs 0x10 0 9 t && t.record.ctx.get .bandwidth == some (.pair 5 6) &&
        t.record.ctx.get (.other 0) == some (.float 0xC024000000000000)) = true := by decide +kernel

/-- V24, V24b, V25, V25a, V25b: the three rounding modes. -/
theorem test_rounding_modes :
    toFixed .binary64 .trunc 0x406FFFEF9DB22D0E 7 16 = some 32767 ∧
    toFixed .binary64 .nearestAway 0x406FFFEF9DB22D0E 7 16 = none ∧
    toFixed .binary64 .nearestEven 0x3F70000000000000 7 16 = some 0 ∧
    toFixed .binary64 .nearestAway 0xBF70000000000000 7 16 = some (-1) ∧
    toFixed .binary64 .nearestEven 0x3F88000000000000 7 16 = some 2 ∧
    toFixed .binary64 .trunc 0x3F88000000000000 7 16 = some 1 := by decide +kernel

/-- R245, V41: GEO_SKIP_WHEN_ABSENT moves the cursor to 19. -/
theorem test_geoSkip_V41 :
    outcomeIs 0x10 0 19
      (decodeContextOp { Config.phpc with geoSkipWhenAbsent := true } 8 (loaded packetS3)) = true := by
  decide +kernel

/-- R211: one pair set, the rest as they were. -/
theorem test_trlValidData :
    after (exec (.trlValidData true) State.reset)
      (fun t => t.record.trl == { Trailer.empty with validData := some true }) = true := by
  decide +kernel

/-- V45, word 17: referenceLevel is -10.0. -/
theorem test_cifReferenceLevel_V45 :
    after (exec .cifReferenceLevel (loaded [0x0000FB00]))
      (fun t => t.record.ctx.get .referenceLevel == some (.float 0xC024000000000000) && t.cur == 1) = true := by
  decide +kernel

/-! ## Witnesses: the hypotheses of the statements can be met -/

theorem witness_StepRunsFetchedInstruction :
    (calling [.fetch (.command ⟨0x4, 8, 0, 0, 0, 0, 0⟩)]).pending =
      .fetch (.command ⟨0x4, 8, 0, 0, 0, 0, 0⟩) :: [] ∧
    decode (.command ⟨0x4, 8, 0, 0, 0, 0, 0⟩) = .ok (.decodeContext 8) := ⟨rfl, rfl⟩

/-- The three clauses, N_IN at its limit and one past it; index 0 written twice, index 9 written last,
index 7 not written. -/
theorem witness_TransportLoadWritesInputBuffer :
    State.reset.pending = [] ∧
    ((calling [.load [(0, 1), (0, 2), (9, 3)] 65536]).pending =
        .load [(0, 1), (0, 2), (9, 3)] 65536 :: [] ∧ (65536 : BitVec 17).toNat ≤ 65536 ∧
      ([(0, 1), (0, 2), (9, 3)] : List (BitVec 16 × Word)) = [(0, 1)] ++ (0, 2) :: [(9, 3)] ∧
      (∀ p ∈ ([(9, 3)] : List (BitVec 16 × Word)), p.1 ≠ 0) ∧
      (∀ p ∈ ([(0, 1), (0, 2), (9, 3)] : List (BitVec 16 × Word)), p.1.toNat ≠ 7)) ∧
    ((calling [.load [] 65537]).pending = .load [] 65537 :: [] ∧ 65536 < (65537 : BitVec 17).toNat) :=
  ⟨rfl, ⟨rfl, by decide, rfl, by simp, by simp⟩, rfl, by decide⟩

/-- Two writes of NSAMP, of which the later stands; a member of REC.ctx; REC.kind and RAWIQ[5] are not named. Then a
name that the default table does not have, and a value of another type than the row's. -/
theorem witness_HostRecordWriteChangesOnlyRecordStores :
    (calling [.hostWrite [.nsamp 4, .nsamp 2, .ctxField .gain (some (.float 0))]]).pending =
      .hostWrite [.nsamp 4, .nsamp 2, .ctxField .gain (some (.float 0))] :: [] ∧
    NamesMember .gain (some (.float 0)) ∧ NamesMember .gain none ∧
    (∀ u ∈ [HostWrite.ctxField .gain (some (.float 0))], writeTarget u ≠ writeTarget (.nsamp 2)) ∧
    (∀ u ∈ [HostWrite.nsamp 4, .nsamp 2, .ctxField .gain (some (.float 0))],
      writeTarget u ≠ writeTarget (.kind .none)) ∧
    HoldsWrite (calling []) (.kind .none) ∧
    (∀ i v, HostWrite.rawiq i v ∈ [HostWrite.rawiq 131071 1] → i.toNat ≠ 5) ∧
    ¬ NamesMember (.other 0) none ∧ ¬ NamesMember .gain (some (.word 0)) := by
  refine ⟨rfl, ⟨Config.rowGain, by decide, rfl, ?_⟩, ⟨Config.rowGain, by decide, rfl, ?_⟩, by decide,
    by decide, rfl, ?_, ?_, ?_⟩
  · intro u h
    cases h
    rfl
  · intro u h
    cases h
  · intro i v h
    cases List.mem_singleton.mp h
    decide
  · rintro ⟨row, hrow, hn, -⟩
    revert row
    decide
  · rintro ⟨row, hrow, hn, hf⟩
    have h := hf _ rfl
    revert row
    decide

theorem witness_ResetLeavesNoPacketNoRecordNoError :
    (calling [.reset, .load [] 0]).pending = .reset :: [.load [] 0] := rfl

/-- A fetched reserved selector, and a fetched command of width 3, of each kind. -/
theorem witness_ReservedEncodingsAreRefused :
    (calling [.fetch (.command (plainCommand 0xE))]).pending =
      .fetch (.command (plainCommand 0xE)) :: [] ∧ (plainCommand 0xE).op = 0xE ∧
    (calling [.fetch (.command { plainCommand 0x8 with width := 3 })]).pending =
      .fetch (.command { plainCommand 0x8 with width := 3 }) :: [] ∧
    ((plainCommand 0x8).op = 0x8 ∧ ({ plainCommand 0x8 with width := 3 } : Cmd).width = 3) ∧
    ({ plainCommand 0x7 with width := 3 } : Cmd).op = 0x7 ∧
    (plainCommand 0x0).op = 0x0 ∧ (plainCommand 0xC).op = 0xC ∧ (plainCommand 0xD).op = 0xD ∧
    (plainCommand 0xF).op = 0xF := by decide

/-- A NORMALIZE, the transport's copy, and a second NORMALIZE; indices below and at N_IN. -/
theorem witness_NormalizeConvertsWholeBuffer :
    ∃ s t s' t' : State, exec .normalize s = .next t ∧ s'.nIn = t.nOut ∧
      (∀ k, k < t.nOut.toNat → s'.ibufAt k = t.obufAt k) ∧ exec .normalize s' = .next t' ∧
      0 < s.nIn.toNat ∧ s.nIn.toNat ≤ 2 := by
  refine ⟨loaded [0x40000008, 0x01800000], _, { normalizeOp Config.phpc (loaded [0x40000008, 0x01800000])
    with ibuf := (normalizeOp Config.phpc (loaded [0x40000008, 0x01800000])).obuf, nIn := 2 }, _, rfl,
    rfl, fun k hk => ?_, rfl, by decide, by decide⟩
  have h : k = 0 ∨ k = 1 := by
    have : k < 2 := hk
    omega
  rcases h with rfl | rfl <;> rfl

/-- A header word of each kind, and no word. -/
theorem witness_PeekClassifiesFirstWord :
    (loaded [0x10000007]).nIn ≠ 0 ∧
    normWord Config.phpc ((loaded [0x10000007]).ibufAt 0) = 0x10000007 ∧
    normWord Config.phpc ((loaded [0x40000008]).ibufAt 0) = 0x40000008 ∧
    normWord Config.phpc ((loaded [0x70000006]).ibufAt 0) = 0x70000006 ∧
    (loaded []).nIn = 0 := by decide +kernel

/-- S1 and V33. -/
theorem witness_PeekReadsOnlyFirstWord :
    (loaded [0x40000008]).nIn ≠ 0 ∧ (loaded [0x40000008, 0xDEADBEEF, 0xFFFFFFFF]).nIn ≠ 0 ∧
    (loaded [0x40000008]).ibufAt 0 = (loaded [0x40000008, 0xDEADBEEF, 0xFFFFFFFF]).ibufAt 0 ∧
    (∃ t, exec .peek (loaded [0x40000008]) = .next t) ∧
    (∃ t, exec .peek (loaded [0x40000008, 0xDEADBEEF, 0xFFFFFFFF]) = .next t) :=
  ⟨by decide, by decide, rfl, ⟨_, rfl⟩, ⟨_, rfl⟩⟩

/-- An unknown type with a size of 4, of 5 and beyond the supply; no word; a context packet and a data packet. -/
theorem witness_DecodeAutoSeparatesFatalFromRecoverable :
    (loaded [0x70000005, 0, 0, 0, 0]).nIn ≠ 0 ∧
    (normWord Config.phpc ((loaded [0x70000005, 0, 0, 0, 0]).ibufAt 0)).extractLsb' 28 4 ≠ 1 ∧
    (normWord Config.phpc ((loaded [0x70000005, 0, 0, 0, 0]).ibufAt 0)).extractLsb' 28 4 ≠ 4 ∧
    ((normWord Config.phpc ((loaded [0x70000005, 0, 0, 0, 0]).ibufAt 0)).extractLsb' 0 16).toNat = 5 ∧
    ((normWord Config.phpc ((loaded [0x70000004, 0, 0, 0, 0]).ibufAt 0)).extractLsb' 0 16).toNat = 4 ∧
    ((normWord Config.phpc ((loaded [0x70000006, 0, 0, 0, 0]).ibufAt 0)).extractLsb' 0 16).toNat = 6 ∧
    (loaded [0x70000006, 0, 0, 0, 0]).nIn.toNat = 5 ∧ (loaded []).nIn = 0 ∧
    (normWord Config.phpc ((loaded packetS3).ibufAt 0)).extractLsb' 28 4 = 4 ∧
    (normWord Config.phpc ((loaded packetS2).ibufAt 0)).extractLsb' 28 4 = 1 := by decide +kernel

/-- Every clause at the edge of its range: S = 4; S = 5 of 4 words; S = 5 of 5 words with the other's type and
with the own type; S = 6 of 6 words. -/
theorem witness_DecodersCheckEntryInOrder :
    (4 : BitVec 16).toNat < 5 ∧
    (5 ≤ (5 : BitVec 16).toNat ∧ (loaded [0x10000005, 0, 0, 0]).nIn.toNat < (5 : BitVec 16).toNat) ∧
    ((5 : BitVec 16).toNat = 5 ∧ 5 ≤ (loaded [0x10000005, 0, 0, 0, 0]).nIn.toNat ∧
      (normWord Config.phpc ((loaded [0x10000005, 0, 0, 0, 0]).ibufAt 0)).extractLsb' 28 4 = 1 ∧
      (normWord Config.phpc ((loaded [0x10000005, 0, 0, 0, 0]).ibufAt 0)).extractLsb' 28 4 ≠ 4 ∧
      (normWord Config.phpc ((loaded [0x40000005, 0, 0, 0, 0]).ibufAt 0)).extractLsb' 28 4 = 4 ∧
      (normWord Config.phpc ((loaded [0x40000005, 0, 0, 0, 0]).ibufAt 0)).extractLsb' 28 4 ≠ 1) ∧
    (6 ≤ (6 : BitVec 16).toNat ∧
      (6 : BitVec 16).toNat ≤ (loaded [0x10000006, 0, 0, 0, 0, 0]).nIn.toNat ∧
      (normWord Config.phpc ((loaded [0x10000006, 0, 0, 0, 0, 0]).ibufAt 0)).extractLsb' 28 4 = 1 ∧
      (normWord Config.phpc ((loaded [0x40000006, 0, 0, 0, 0, 0]).ibufAt 0)).extractLsb' 28 4 = 4) := by
  decide +kernel

/-- V57, and V72. -/
theorem witness_FailedDecodeRepeats :
    (∃ t, exec (.decodeContext 7) (loaded packetS2) = .next t ∧ statusCode t.status ≠ 0) ∧
    (∃ t, exec (.decodeData 0 0) (loaded packetS2) = .next t ∧ statusCode t.status ≠ 0) :=
  ⟨⟨_, rfl, by decide +kernel⟩, ⟨_, rfl, by decide +kernel⟩⟩

theorem witness_EveryCommandCompletes :
    isCommand .encodeData = true ∧ Instr.wf .encodeData = true ∧
    ({ State.reset with nsamp := 2 } : State).nsamp.toNat % 2 = 0 ∧
    isCommand (.toFixed 0 7 2) = true ∧ (Instr.toFixed 0 7 2).wf = true := by decide

/-- A command, and a packet word's row. -/
theorem witness_OutcomeCodesAreThoseOfTheTable :
    (∃ t, exec .peek State.reset = .next t) ∧ isCommand .peek = true ∧
    (∃ t, exec .cifGain State.reset = .next t) ∧ isCommand .cifGain = false :=
  ⟨⟨_, rfl⟩, rfl, ⟨_, rfl⟩, rfl⟩

/-- S2, and the empty payload of V70. -/
theorem witness_DecodeDataExtractsPacket :
    (6 ≤ (7 : BitVec 16).toNat ∧ (7 : BitVec 16).toNat ≤ (loaded packetS2).nIn.toNat ∧
      (normWord Config.phpc ((loaded packetS2).ibufAt 0)).extractLsb' 28 4 = 1) ∧
    (6 ≤ (6 : BitVec 16).toNat ∧
      (6 : BitVec 16).toNat ≤ (loaded [0x10000006, 0, 0, 0, 0, 0]).nIn.toNat ∧
      (normWord Config.phpc ((loaded [0x10000006, 0, 0, 0, 0, 0]).ibufAt 0)).extractLsb' 28 4 = 1) := by
  decide +kernel

/-- The greatest finite factor; a NaN, an infinity. -/
theorem witness_ScaleSampleExactAndSpecial :
    floatIsFinite .binary64 0x7FEFFFFFFFFFFFFF = true ∧
    floatIsNan .binary64 0x7FF8000000000000 = true ∧ floatIsInf .binary64 0xFFF0000000000000 = true ∧
    (16384 : Sample) ≠ 0 := by decide +kernel

/-- A NaN; the level 0, whose power of ten is 1; the level 8192, whose power of ten is past the greatest Float. -/
theorem witness_RefScaleIsRoundedPowerOfTen :
    floatIsNan .binary64 0x7FF8000000000000 = true ∧ floatIsFinite .binary64 0 = true ∧
    (10 : ℝ) ^ ((floatValue .binary64 0 : ℝ) / 20) < 2 ^ 1024 - 2 ^ 970 ∧
    floatIsFinite .binary64 0x40C0000000000000 = true ∧
    (2 : ℝ) ^ 1024 - 2 ^ 970 ≤ (10 : ℝ) ^ ((floatValue .binary64 0x40C0000000000000 : ℝ) / 20) := by
  have h0 : floatValue .binary64 0 = 0 := by decide +kernel
  have h1 : floatValue .binary64 0x40C0000000000000 = 8192 := by decide +kernel
  refine ⟨by decide +kernel, by decide +kernel, ?_, by decide +kernel, ?_⟩
  · have h : (2 : ℝ) ^ 1024 = 2 ^ 970 * 2 ^ 54 := by rw [← pow_add]
    have h2 : (1 : ℝ) ≤ 2 ^ 970 := one_le_pow₀ (by norm_num)
    rw [h0, h]
    clear h
    generalize (2 : ℝ) ^ 970 = a at *
    norm_num
    linarith
  · rw [h1]
    have h2 : (10 : ℝ) ^ ((400 : Nat) : ℝ) ≤ (10 : ℝ) ^ (((8192 : ℚ) : ℝ) / 20) :=
      Real.rpow_le_rpow_of_exponent_le (by norm_num) (by norm_num)
    rw [Real.rpow_natCast] at h2
    have h3 : (2 : ℝ) ^ 1024 ≤ 10 ^ 400 := by
      calc (2 : ℝ) ^ 1024 ≤ 2 ^ (3 * 400) := pow_le_pow_right₀ (by norm_num) (by norm_num)
        _ = 8 ^ 400 := by rw [pow_mul]; norm_num only
        _ ≤ 10 ^ 400 := pow_le_pow_left₀ (by norm_num) (by norm_num) _
    have h4 : (0 : ℝ) ≤ 2 ^ 970 := by positivity
    exact (sub_le_self _ h4).trans (h3.trans h2)

/-- The pairs of R210 with the count at either place that R210's bits leave it. -/
theorem witness_TrailerPackDecodePair :
    trailerPairsOk Config.defaultTrailerPairs = true ∧ Config.phpc.trailerCountLsb ≤ 1 ∧
    ({ Config.phpc with trailerCountLsb := 1 } : Config).trailerCountLsb ≤ 1 ∧ 31 < 32 := by decide

theorem witness_PackTrailerSetsMemberBits :
    (⟨.sampleLoss, 24, 12⟩ : TrailerPair) ∈ Config.defaultTrailerPairs ∧
    8 ∈ [28, 27, 26, 23, 22, 21, 20, 16, 15, 14, 11, 10, 9, 8, 6] := by decide

/-- The empty payload, the largest packet (V79), the first that does not fit (V78), an odd count. -/
theorem witness_EncodeDataBuildsPacket :
    (State.reset.nsamp.toNat % 2 = 0 ∧ 6 + State.reset.nsamp.toNat / 2 ≤ 65535) ∧
    ((131058 : BitVec 18).toNat % 2 = 0 ∧ 6 + (131058 : BitVec 18).toNat / 2 ≤ 65535) ∧
    ((131060 : BitVec 18).toNat % 2 = 0 ∧ 65535 < 6 + (131060 : BitVec 18).toNat / 2) ∧
    (1 : BitVec 18).toNat % 2 = 1 := by decide

/-- The record of S2, its packet copied back. -/
theorem witness_DataPacketRoundTrip :
    ∃ s t s' : State, s.nsamp.toNat % 2 = 0 ∧ 0 < s.nsamp.toNat ∧ s.nsamp.toNat ≤ 131058 ∧
      exec .encodeData s = .next t ∧ s'.nIn = t.nOut ∧
      ∀ k, k < t.nOut.toNat → s'.ibufAt k = t.obufAt k := by
  let s : State := { recorded zeroPro { Trailer.empty with validData := some true } ContextRec.empty with
    rawiq := ⟨0, [(0, 16384), (1, -16384)]⟩, nsamp := 2 }
  refine ⟨s, encodeDataOp Config.phpc s, { encodeDataOp Config.phpc s with
    ibuf := (encodeDataOp Config.phpc s).obuf, nIn := (encodeDataOp Config.phpc s).nOut }, ?_⟩
  exact ⟨by decide, by decide, by decide,
    by show encodeDataCommand Config.phpc s = _; unfold encodeDataCommand; rw [if_pos (by decide)], rfl, by decide +kernel⟩

/-- The last pair that RAWIQ has room for, and the first that it has not. -/
theorem witness_PayloadWordRowAppendsPair :
    (131070 : BitVec 18).toNat + 2 ≤ 131072 ∧ 131072 < (131071 : BitVec 18).toNat + 2 := by decide

/-- S3: the fields end exactly at S. -/
theorem witness_DecodeContextExtractsPresentFields :
    normWord Config.phpc ((loaded packetS3).ibufAt 5) = 0x01800000 ∧ 6 ≤ (8 : BitVec 16).toNat ∧
    (8 : BitVec 16).toNat ≤ (loaded packetS3).nIn.toNat ∧
    (normWord Config.phpc ((loaded packetS3).ibufAt 0)).extractLsb' 28 4 = 4 ∧
    fieldPos 0x01800000 18 ≤ (8 : BitVec 16).toNat := by decide +kernel

/-- The packet of S3 cut to 7 words: gain, row 8, is the first field that does not fit. -/
theorem witness_DecodeContextStopsAtFirstTruncatedField :
    normWord Config.phpc ((loaded packetS3).ibufAt 5) = 0x01800000 ∧ 6 ≤ (7 : BitVec 16).toNat ∧
    (7 : BitVec 16).toNat ≤ (loaded packetS3).nIn.toNat ∧
    (normWord Config.phpc ((loaded packetS3).ibufAt 0)).extractLsb' 28 4 = 4 ∧
    Config.defaultFieldTable[8]? = some Config.rowGain ∧
    (0x01800000 : Word).getLsbD Config.rowGain.bit = true ∧ 0 < Config.rowGain.dec.width ∧
    fieldPos 0x01800000 8 ≤ (7 : BitVec 16).toNat ∧
    (7 : BitVec 16).toNat < fieldPos 0x01800000 8 + Config.rowGain.dec.width := by decide +kernel

theorem witness_IndicatorAndPresenceAgree :
    fieldTableOk Config.phpc.fieldTable = true ∧
    Config.rowGain ∈ Config.defaultFieldTable ∧
    ∀ row ∈ Config.defaultFieldTable,
      ctxS3.present row = (0x01800001 : Word).getLsbD row.bit := by decide

/-- The record of S3: both Floats convert. -/
theorem witness_EncodeContextBuildsPacket :
    ∀ row ∈ Config.defaultFieldTable, ∀ sub,
      ¬ RowOverflows (recorded zeroPro Trailer.empty ctxS3).record.ctx row sub := by
  have h1 : toFixed .binary64 .nearestEven 0xC024000000000000 7 16 = some (-1280) := by decide +kernel
  have h2 : toFixed .binary64 .nearestEven 0x4024000000000000 7 16 = some 1280 := by decide +kernel
  intro row hrow sub h
  simp only [Config.defaultFieldTable, List.mem_cons, List.not_mem_nil, or_false] at hrow
  rcases hrow with rfl | rfl | rfl | rfl | rfl | rfl | rfl | rfl | rfl | rfl | rfl | rfl | rfl | rfl |
    rfl | rfl | rfl | rfl
  all_goals first
    | exact h
    | (obtain ⟨-, v, hv, hn⟩ := h
       first
         | (cases hv; done)
         | (cases hv; exact nomatch hn.symm.trans h1)
         | (cases hv; exact nomatch hn.symm.trans h2))
    | (obtain ⟨G, hG, -⟩ := h
       cases hG)

/-- V58: referenceLevel, row 7, is 256.0; the rows before it are absent. -/
theorem witness_EncodeContextStopsAtFirstOverflow :
    Config.defaultFieldTable[7]? = some Config.rowReferenceLevel ∧
    RowOverflows (ctxS3.set .referenceLevel (some (.float 0x4070000000000000)))
      Config.rowReferenceLevel 0 ∧
    ∀ q row', q < 7 → Config.defaultFieldTable[q]? = some row' →
      ∀ sub', ¬ RowOverflows (ctxS3.set .referenceLevel (some (.float 0x4070000000000000))) row' sub' := by
  refine ⟨rfl, ⟨rfl, _, rfl, by decide +kernel⟩, ?_⟩
  intro q row' hq hrow sub' h
  have hq' : q = 0 ∨ q = 1 ∨ q = 2 ∨ q = 3 ∨ q = 4 ∨ q = 5 ∨ q = 6 := by omega
  rcases hq' with rfl | rfl | rfl | rfl | rfl | rfl | rfl <;> cases hrow
  all_goals first
    | exact h
    | (obtain ⟨-, v, hv, -⟩ := h
       cases hv)

/-- The record of S3, its packet copied back. -/
theorem witness_ContextPacketRoundTrip :
    ∃ s t s' : State, exec .encodeContext s = .next t ∧ statusCode t.status = 0 ∧ s'.nIn = t.nOut ∧
      ∀ k, k < t.nOut.toNat → s'.ibufAt k = t.obufAt k := by
  let s : State := recorded zeroPro Trailer.empty ctxS3
  refine ⟨s, encodeContextOp Config.phpc s, { encodeContextOp Config.phpc s with
    ibuf := (encodeContextOp Config.phpc s).obuf, nIn := (encodeContextOp Config.phpc s).nOut }, ?_⟩
  exact ⟨rfl, by decide +kernel, rfl, by decide +kernel⟩

/-- For OneWordRowsReadAtCursor, TwoWordRowsReadAtCursor, FrequencyRowsReadAtCursor,
SixteenBitRowsReadAtCursor and FlagAndGeolocationRowsReadAtCursor: one word, two words and eleven words that end
exactly at N_IN. -/
theorem witness_RowsReadAtCursor :
    (loaded [7]).cur.toNat + 1 ≤ (loaded [7]).nIn.toNat ∧
    normWord Config.phpc ((loaded [7]).ibufAt (loaded [7]).cur.toNat) = 7 ∧
    (loaded [0x00002625, 0xA0000000]).cur.toNat + 2 ≤ (loaded [0x00002625, 0xA0000000]).nIn.toNat ∧
    (loaded [0, 0, 0, 0, 0, 0, 0, 0, 0, 0, 0]).cur.toNat + 11 ≤
      (loaded [0, 0, 0, 0, 0, 0, 0, 0, 0, 0, 0]).nIn.toNat := by decide +kernel

/-- Row 1 with the cursor at the end of the supply, and row 17 one word short. -/
theorem witness_FieldRowsTruncateAtPacketEnd :
    (instrOfField Config.rowReferencePointId.name = some .cifReferencePointId ∧
      Config.defaultFieldTable[1]? = some Config.rowReferencePointId ∧
      0 < Config.rowReferencePointId.dec.width ∧
      State.reset.nIn.toNat < State.reset.cur.toNat + Config.rowReferencePointId.dec.width) ∧
    (instrOfField Config.rowGeolocation.name = some .cifGeolocation ∧
      Config.defaultFieldTable[17]? = some Config.rowGeolocation ∧ 0 < Config.rowGeolocation.dec.width ∧
      (loaded [0, 0, 0, 0, 0, 0, 0, 0, 0, 0]).nIn.toNat <
        (loaded [0, 0, 0, 0, 0, 0, 0, 0, 0, 0]).cur.toNat + Config.rowGeolocation.dec.width) := by
  decide

/-- V20 and V22, and the three width codes. -/
theorem witness_ToFixedConvertsOrOverflows :
    toFixed .binary64 .nearestEven 0xC024000000000000 (7 : BitVec 6).toNat 16 = some (-1280) ∧
    toFixed .binary64 .nearestEven 0x4070000000000000 (7 : BitVec 6).toNat 16 = none ∧
    ((0 : BitVec 2) = 0 ∧ 16 = 16) ∧ ((1 : BitVec 2) = 1 ∧ 32 = 32) ∧ ((2 : BitVec 2) = 2 ∧ 64 = 64) := by
  decide +kernel

/-- The largest number of fractional bits and each width. -/
theorem witness_ToFixedRoundsToNearestEven :
    63 ≤ 63 ∧ 16 ∈ [16, 32, 64] ∧ 64 ∈ [16, 32, 64] ∧
    toFixed .binary64 .nearestEven 0x3F70000000000000 7 16 = some 0 := by decide +kernel

/-- The ends of the 64-bit range; V18's tie, whose other neighbour is 2^53 + 2. -/
theorem witness_ToFloatIsNearestFloat :
    63 ≤ 63 ∧ -(2 : Int) ^ 63 ≤ 2 ^ 63 - 1 ∧ -(2 : Int) ^ 63 ≤ -2 ^ 63 ∧
    floatIsFinite .binary64 0x4340000000000001 = true ∧
    floatValue .binary64 0x4340000000000001 ≠ floatValue .binary64 (toFloat .binary64 (2 ^ 53 + 1) 0) ∧
    |floatValue .binary64 0x4340000000000001 - ((2 ^ 53 + 1 : Int) : ℚ) / 2 ^ 0| =
      |floatValue .binary64 (toFloat .binary64 (2 ^ 53 + 1) 0) - ((2 ^ 53 + 1 : Int) : ℚ) / 2 ^ 0| ∧
    (2 ^ 53 - 1 : Int).natAbs < 2 ^ 53 := by decide +kernel

/-- The greatest and the least value of the law, at the largest number of fractional bits. -/
theorem witness_FixedToFloatToFixedIsExact :
    64 ∈ [16, 32, 64] ∧ 63 ≤ 63 ∧ -(2 : Int) ^ (64 - 1) ≤ 2 ^ 53 - 1 ∧
    (2 ^ 53 - 1 : Int) ≤ 2 ^ (64 - 1) - 1 ∧ (2 ^ 53 - 1 : Int).natAbs < 2 ^ 53 ∧
    -(2 : Int) ^ (16 - 1) ≤ -32768 ∧ (-32768 : Int) ≤ 2 ^ (16 - 1) - 1 := by decide

/-- V25c under each mode, and the multiple -10.0 of 2^-7. -/
theorem witness_FloatToFixedToFloatIsBounded :
    floatIsFinite .binary64 0x3FB999999999999A = true ∧
    toFixed .binary64 .nearestEven 0x3FB999999999999A 7 16 = some 13 ∧
    toFixed .binary64 .nearestAway 0x3FB999999999999A 7 16 = some 13 ∧
    toFixed .binary64 .trunc 0x3FB999999999999A 7 16 = some 12 ∧ (13 : Int).natAbs < 2 ^ 53 ∧
    toFixed .binary64 .nearestEven 0xC024000000000000 7 16 = some (-1280) ∧
    floatValue .binary64 0xC024000000000000 = ((-1280 : Int) : ℚ) / 2 ^ 7 := by decide +kernel

theorem witness_StepKeepsMachineLegal :
    (calling [.fetch (.command (plainCommand 0x2))]).Inv ∧
    ∃ t, step (calling [.fetch (.command (plainCommand 0x2))]) = .next t := ⟨by decide, ⟨_, rfl⟩⟩

theorem witness_OperationsLeaveInputBuffer : ∃ t, exec .packHeader State.reset = .next t := ⟨_, rfl⟩

/-- Instructions of each clause, and a DECODE_CONTEXT and a field's row that end in no error. -/
theorem witness_EachPlaceHasItsWriters :
    (Instr.peek ≠ .normalize ∧ Instr.peek ≠ .encodeData ∧ Instr.peek ≠ .encodeContext) ∧
    (isFieldRow .packHeader = false ∧ isCommand .packHeader = true ∧ Instr.packHeader ≠ .peek) ∧
    (∃ t, exec (.decodeContext 8) (loaded packetS3) = .next t ∧ t.status ≠ 0x12 ∧ t.status ≠ 0x11 ∧
      t.status ≠ 0x1B) ∧
    (isFieldRow .cifGain = true ∧ ∃ t, exec .cifGain (loaded [0x500]) = .next t ∧ t.status ≠ 0x12 ∧
      t.status ≠ 0x11 ∧ t.status ≠ 0x1B) :=
  ⟨by decide, by decide,
    ⟨_, rfl, by decide +kernel, by decide +kernel, by decide +kernel⟩,
    ⟨rfl, _, rfl, by decide +kernel, by decide +kernel, by decide +kernel⟩⟩

/-- The packet of S2 with and without a word after it (V76), and that of S3 with one word left out. -/
theorem witness_DecodesDependOnPacketAlone :
    ((7 : BitVec 16).toNat ≤ (loaded packetS2).nIn.toNat ∧
      (7 : BitVec 16).toNat ≤ (loaded (packetS2 ++ [0xDEADBEEF])).nIn.toNat ∧
      (∀ k, k < (7 : BitVec 16).toNat →
        (loaded packetS2).ibufAt k = (loaded (packetS2 ++ [0xDEADBEEF])).ibufAt k)) ∧
    after (exec (.decodeData 7 0) (loaded packetS2)) (fun t => t.status == 0x10) = true ∧
    after (exec (.decodeContext 8) (loaded packetS3)) (fun t => t.status == 0x10) = true := by
  decide +kernel

/-- Every tuple decodes somewhere: the selectors of both clauses with a width, and a map of OPCODES other than the
default. -/
theorem witness_SpecWordsDecode :
    (plainCommand 0x7).op = 0x7 ∧ (plainCommand 0x7).width ≠ 3 ∧ (plainCommand 0x8).op = 0x8 ∧
    (plainCommand 0x1).op = 0x1 ∧ (plainCommand 0x2).op = 0x2 ∧ (plainCommand 0x3).op = 0x3 ∧
    (plainCommand 0x4).op = 0x4 ∧ (plainCommand 0x5).op = 0x5 ∧ (plainCommand 0x6).op = 0x6 ∧
    (plainCommand 0x9).op = 0x9 ∧ (plainCommand 0xA).op = 0xA ∧ (plainCommand 0xB).op = 0xB := by decide

theorem witness_CommandsDecodeUnderAnyOpcodes :
    opcodesOk (fun op => if op = .peek then 0xF else Config.defaultOpcodes op) = true ∧
    isCommand (.decodeData 7 0) = true ∧ (Instr.decodeData 7 0).wf = true := by decide

theorem witness_DecodeInvertsEncode :
    (Instr.toFixed 0xC024000000000000 7 2).wf = true ∧ (Instr.trlCtxCount 63).wf = true := by decide

/-! ## Reset -/

theorem test_reset_inv : State.reset.Inv := by decide

end Sys2Proof.Tests
end

section
/-! PROOFS. The state of PHPC (`spec/10_state.md`): the values at reset (R39), which instruction writes which place
(R38), and what a decode depends on (R37, R56). -/

namespace Sys2Proof.Machine

/-! ### Reset (R39, R341) -/

/-- A step with `rst` at the head of the caller's actions gives every field its reset value. -/
theorem step_reset {s : State} {rest : List Action} (h : s.pending = .reset :: rest) :
    step s = .next (State.resetWith s.free (s.free + 1) rest) := by
  rw [step, runPending, h]
  rfl

/-- Settles O4: both states have the form `State.resetWith`, whose fields its laws give. -/
theorem resetLeavesNoPacketNoRecordNoError : Obligations.ResetLeavesNoPacketNoRecordNoError := by
  unfold Obligations.ResetLeavesNoPacketNoRecordNoError
  constructor
  · simp [State.reset, zeroRecord]
  · intro s rest h
    exact ⟨_, step_reset h, by simp [zeroRecord]⟩

/-- Settles O49: the memories of the reset state are canonical, its counts and its STATUS are 0. -/
theorem resetIsLegal : Obligations.ResetIsLegal := by
  obtain ⟨hibuf, hobuf, hrawiq, hscaled⟩ := reset_memories_wf
  have hstatus : statusLegal State.reset.status State.reset.errinfo := ⟨.inl rfl, fun _ => rfl⟩
  exact ⟨hibuf, hobuf, hrawiq, hscaled, Nat.zero_le _, Nat.zero_le _, hstatus⟩

/-! ### The places that an instruction writes (R38, R305) -/

/-- `s` with the outcome of `t`: STATUS, ERRINFO and the number of the next free value. -/
def takeOutcome (s t : State) : State :=
  { s with status := t.status, errinfo := t.errinfo, free := t.free }

/-- `s` with the places that a decode writes, or makes unspecified, as they are in `t`. -/
def takeDecode (s t : State) : State :=
  { takeOutcome s t with
    cur := t.cur, record := t.record, rawiq := t.rawiq, scaled := t.scaled, nsamp := t.nsamp }

/-- R38's table as a function: `s` with the places that `i` writes, on any path, as they are in `t`. -/
def takeWrites (i : Instr) (s t : State) : State :=
  match i with
  | .normalize | .encodeData | .encodeContext =>
    { takeOutcome s t with obuf := t.obuf, nOut := t.nOut }
  | .peek | .hdrData _ _ _ | .hdrContext _ _ _ =>
    { takeOutcome s t with ptype := t.ptype, pcode := t.pcode, psize := t.psize }
  | .toFixed _ _ _ => { takeOutcome s t with fxintOut := t.fxintOut }
  | .toFloat _ _ _ => { takeOutcome s t with fxvalOut := t.fxvalOut }
  | .packHeader | .packTrailer | .packIndicator => { takeOutcome s t with packout := t.packout }
  | .reservedOp0 | .reservedOpC | .reservedOpD | .reservedOpE | .reservedOpF => s
  | .iq _ _ => { takeOutcome s t with rawiq := t.rawiq, nsamp := t.nsamp }
  | .trlCalibratedTime _ | .trlValidData _ | .trlReferenceLock _ | .trlOverRange _ | .trlSampleLoss _
  | .trlCtxCount _ => { takeOutcome s t with record := t.record }
  | .decodeData _ _ | .decodeContext _
  | .cifChangeIndicator | .cifReferencePointId | .cifBandwidth | .cifIfRefFreq | .cifRfRefFreq
  | .cifRfRefFreqOffset | .cifIfBandOffset | .cifReferenceLevel | .cifGain | .cifOverRangeCount
  | .cifSampleRate | .cifTimestampAdjustment | .cifTimestampCalTime | .cifTemperature
  | .cifDeviceId | .cifStateEventIndicators | .cifDataPayloadFormat | .cifGeolocation => takeDecode s t

theorem peekOp_frame (c : Config) (s : State) :
    peekOp c s = takeWrites .peek s (peekOp c s) := by
  unfold peekOp
  split <;> rfl

theorem decodeDataOp_frame (c : Config) (S : BitVec 16) (ref : F64) (s : State) :
    decodeDataOp c S ref s = takeDecode s (decodeDataOp c S ref s) := by
  unfold decodeDataOp
  split <;> rfl

theorem decodeContextOp_frame (c : Config) (S : BitVec 16) (s : State) :
    decodeContextOp c S s = takeDecode s (decodeContextOp c S s) := by
  unfold decodeContextOp
  split
  · rfl
  · split <;> rfl

theorem presentField_frame (c : Config) (idx : Nat) (row : FieldRow) (s : State) :
    presentField c idx row s = takeDecode s (presentField c idx row s) := by
  unfold presentField
  split <;> rfl

theorem encodeDataOp_frame (c : Config) (s : State) :
    encodeDataOp c s = takeWrites .encodeData s (encodeDataOp c s) := by
  simp only [encodeDataOp]
  split <;> rfl

theorem encodeContextOp_frame (c : Config) (s : State) :
    encodeContextOp c s = takeWrites .encodeContext s (encodeContextOp c s) := by
  unfold encodeContextOp
  split
  · rfl
  · split <;> rfl

theorem toFixedOp_frame (c : Config) (x : F64) (frac : BitVec 6) (width : BitVec 2) (W : Nat) (s : State) :
    toFixedOp c x frac W s = takeWrites (.toFixed x frac width) s (toFixedOp c x frac W s) := by
  unfold toFixedOp
  split <;> rfl

theorem encodeDataCommand_eq_next {c : Config} {s t : State} (h : encodeDataCommand c s = .next t) :
    encodeDataOp c s = t := by
  unfold encodeDataCommand at h
  split at h
  · exact Host.Outcome.next.inj h
  · cases h

theorem toFixedCommand_eq_next {c : Config} {x : F64} {frac : BitVec 6} {width : BitVec 2} {s t : State}
    (h : toFixedCommand c x frac width s = .next t) : ∃ W, toFixedOp c x frac W s = t := by
  unfold toFixedCommand at h
  split at h
  · cases h
  · exact ⟨_, Host.Outcome.next.inj h⟩

theorem toFloatCommand_eq_next {c : Config} {n : BitVec 64} {frac : BitVec 6} {width : BitVec 2} {s t : State}
    (h : toFloatCommand c n frac width s = .next t) : ∃ W, toFloatOp c n frac W s = t := by
  unfold toFloatCommand at h
  split at h
  · cases h
  · exact ⟨_, Host.Outcome.next.inj h⟩

theorem appendPair_frame {x y : Sample} {s t : State} (h : appendPair x y s = .next t) :
    t = takeWrites (.iq x y) s t := by
  unfold appendPair at h
  split at h
  · cases h; rfl
  · cases h

/-- R93: each of the eighteen rows presents some row of the field table at CUR. -/
theorem exec_fieldRow {i : Instr} (h : isFieldRow i = true) (s : State) :
    ∃ idx row, exec i s = .next (presentField Config.phpc idx row s) := by
  cases i <;> first | exact ⟨_, _, rfl⟩ | nomatch h

theorem takeWrites_fieldRow {i : Instr} (h : isFieldRow i = true) (s t : State) :
    takeWrites i s t = takeDecode s t := by
  cases i <;> first | rfl | nomatch h

/-- R38: an instruction that answers a next state has changed only the places that it writes. -/
theorem exec_frame {i : Instr} {s t : State} (h : exec i s = .next t) : t = takeWrites i s t := by
  by_cases hrow : isFieldRow i = true
  · obtain ⟨idx, row, hexec⟩ := exec_fieldRow hrow s
    rw [hexec] at h
    cases h
    rw [takeWrites_fieldRow hrow]
    exact presentField_frame ..
  · cases i
    case normalize => cases h; rfl
    case peek => cases h; exact peekOp_frame ..
    case decodeData S ref => cases h; exact decodeDataOp_frame ..
    case decodeContext S => cases h; exact decodeContextOp_frame ..
    case encodeData => rw [← encodeDataCommand_eq_next h]; exact encodeDataOp_frame ..
    case encodeContext => cases h; exact encodeContextOp_frame ..
    case toFixed x frac width =>
      obtain ⟨W, rfl⟩ := toFixedCommand_eq_next h
      exact toFixedOp_frame ..
    case toFloat n frac width =>
      obtain ⟨W, rfl⟩ := toFloatCommand_eq_next h
      rfl
    case iq x y => exact appendPair_frame h
    case packHeader | packTrailer | packIndicator => cases h; rfl
    case reservedOp0 | reservedOpC | reservedOpD | reservedOpE | reservedOpF => cases h
    case hdrData | hdrContext => cases h; rfl
    case trlCalibratedTime | trlValidData | trlReferenceLock | trlOverRange | trlSampleLoss | trlCtxCount =>
      cases h; rfl
    all_goals exact absurd rfl hrow

/-- Settles O50: no row of R38's table names IBUF, N_IN or the caller's actions. -/
theorem operationsLeaveInputBuffer : Obligations.OperationsLeaveInputBuffer := by
  intro i s t h
  have keeps : (takeWrites i s t).ibuf = s.ibuf ∧ (takeWrites i s t).nIn = s.nIn ∧
      (takeWrites i s t).pending = s.pending := by
    cases i <;> exact ⟨rfl, rfl, rfl⟩
  rwa [← exec_frame h] at keeps

/-! ### R38, place by place -/

theorem takeWrites_output {i : Instr} (hnorm : i ≠ .normalize) (hdata : i ≠ .encodeData)
    (hctx : i ≠ .encodeContext) (s t : State) :
    (takeWrites i s t).obuf = s.obuf ∧ (takeWrites i s t).nOut = s.nOut := by
  cases i
  case normalize => exact absurd rfl hnorm
  case encodeData => exact absurd rfl hdata
  case encodeContext => exact absurd rfl hctx
  all_goals exact ⟨rfl, rfl⟩

theorem takeWrites_cursor_samples {i : Instr} (hdata : ∀ S ref, i ≠ .decodeData S ref)
    (hctx : ∀ S, i ≠ .decodeContext S) (hrow : isFieldRow i = false) (s t : State) :
    (takeWrites i s t).cur = s.cur ∧ (takeWrites i s t).scaled = s.scaled ∧
      ((∀ x y, i ≠ .iq x y) →
        (takeWrites i s t).rawiq = s.rawiq ∧ (takeWrites i s t).nsamp = s.nsamp) := by
  cases i
  case decodeData S ref => exact absurd rfl (hdata S ref)
  case decodeContext S => exact absurd rfl (hctx S)
  case iq x y => exact ⟨rfl, rfl, fun hiq => absurd rfl (hiq x y)⟩
  all_goals first | exact ⟨rfl, rfl, fun _ => ⟨rfl, rfl⟩⟩ | nomatch hrow

theorem takeWrites_record {i : Instr} (hcmd : isCommand i = true) (hdata : ∀ S ref, i ≠ .decodeData S ref)
    (hctx : ∀ S, i ≠ .decodeContext S) (s t : State) : (takeWrites i s t).record = s.record := by
  cases i
  case decodeData S ref => exact absurd rfl (hdata S ref)
  case decodeContext S => exact absurd rfl (hctx S)
  all_goals first | rfl | nomatch hcmd

theorem takeWrites_peeked {i : Instr} (hcmd : isCommand i = true) (hpeek : i ≠ .peek) (s t : State) :
    (takeWrites i s t).ptype = s.ptype ∧ (takeWrites i s t).pcode = s.pcode ∧
      (takeWrites i s t).psize = s.psize := by
  cases i
  case peek => exact absurd rfl hpeek
  all_goals first | exact ⟨rfl, rfl, rfl⟩ | nomatch hcmd

theorem takeWrites_fxintOut {i : Instr} (h : ∀ x f w, i ≠ .toFixed x f w) (s t : State) :
    (takeWrites i s t).fxintOut = s.fxintOut := by
  cases i
  case toFixed x f w => exact absurd rfl (h x f w)
  all_goals rfl

theorem takeWrites_fxvalOut {i : Instr} (h : ∀ x f w, i ≠ .toFloat x f w) (s t : State) :
    (takeWrites i s t).fxvalOut = s.fxvalOut := by
  cases i
  case toFloat x f w => exact absurd rfl (h x f w)
  all_goals rfl

theorem takeWrites_packout {i : Instr} (hhdr : i ≠ .packHeader) (htrl : i ≠ .packTrailer)
    (hind : i ≠ .packIndicator) (s t : State) : (takeWrites i s t).packout = s.packout := by
  cases i
  case packHeader => exact absurd rfl hhdr
  case packTrailer => exact absurd rfl htrl
  case packIndicator => exact absurd rfl hind
  all_goals rfl

/-! ### A decode of context fields that ends in no error (R244, R305) -/

/-- STATUS is that of one of the errors a decode can end in (R306). -/
def DecodeError (status : BitVec 5) : Prop := status = 0x12 ∨ status = 0x11 ∨ status = 0x1B

/-- The places of REC and the stores that only a data packet gives a value. -/
def SameSamples (s t : State) : Prop :=
  t.scaled = s.scaled ∧ t.rawiq = s.rawiq ∧ t.nsamp = s.nsamp ∧ t.record.trl = s.record.trl

/-- R310: an entry check that fails gives one of the decodes' own errors. -/
theorem decodeError_of_entryChecks {S : BitVec 16} {nIn : BitVec 17} {found want : BitVec 4}
    {expected : BitVec 2} {e : ErrorOutcome} (h : entryChecks S nIn found want expected = some e) :
    DecodeError (errorStatus e) := by
  unfold entryChecks at h
  split at h
  · cases h; exact .inr (.inr (errorStatus_sizeImplausible ..))
  · split at h
    · cases h; exact .inr (.inr (errorStatus_sizeImplausible ..))
    · split at h
      · cases h; exact .inr (.inl (errorStatus_invalidPacketType ..))
      · split at h
        · cases h; exact .inl (errorStatus_truncatedField ..)
        · cases h

theorem decodeContextOp_sameSamples (c : Config) (S : BitVec 16) (s : State) :
    DecodeError (decodeContextOp c S s).status ∨ SameSamples s (decodeContextOp c S s) := by
  unfold decodeContextOp
  split
  next hentry => exact .inl (decodeError_of_entryChecks hentry)
  next =>
    split
    next hwalk =>
      obtain ⟨row, cur, rfl⟩ := walk_eq_error hwalk
      exact .inl (.inl (errorStatus_truncatedField ..))
    next => exact .inr ⟨rfl, rfl, rfl, rfl⟩

theorem presentField_sameSamples (c : Config) (idx : Nat) (row : FieldRow) (s : State) :
    DecodeError (presentField c idx row s).status ∨ SameSamples s (presentField c idx row s) := by
  unfold presentField
  split
  next hrow =>
    obtain ⟨-, -, -, rfl⟩ := (walkRow_eq_error_iff ..).mp hrow
    exact .inl (.inl (errorStatus_truncatedField ..))
  next => exact .inr ⟨rfl, rfl, rfl, rfl⟩

theorem exec_sameSamples {i : Instr} {s t : State} (h : exec i s = .next t)
    (hi : isFieldRow i = true ∨ ∃ S, i = .decodeContext S) : DecodeError t.status ∨ SameSamples s t := by
  rcases hi with hrow | ⟨S, rfl⟩
  · obtain ⟨idx, row, hexec⟩ := exec_fieldRow hrow s
    rw [hexec] at h
    cases h
    exact presentField_sameSamples ..
  · cases h
    exact decodeContextOp_sameSamples ..

/-- Settles O51: the frame of `exec` gives each place's writers; the clause on context fields is a case of the
walk. -/
theorem eachPlaceHasItsWriters : Obligations.EachPlaceHasItsWriters := by
  intro i s t h
  have hsamples := exec_sameSamples h
  have hframe := exec_frame h
  refine ⟨?output, ?cursor, ?samples, ?record, ?peeked, ?fxint, ?fxval, ?packout⟩
  case samples =>
    intro hi h12 h11 h1B
    rcases hsamples hi with (herr | herr | herr) | hsame
    · exact absurd herr h12
    · exact absurd herr h11
    · exact absurd herr h1B
    · exact hsame
  all_goals rw [hframe]
  case output => exact fun hnorm hdata hctx => takeWrites_output hnorm hdata hctx s t
  case cursor => exact fun hdata hctx hrow => takeWrites_cursor_samples hdata hctx hrow s t
  case record => exact fun hcmd hdata hctx => takeWrites_record hcmd hdata hctx s t
  case peeked => exact fun hcmd hpeek => takeWrites_peeked hcmd hpeek s t
  case fxint => exact fun hi => takeWrites_fxintOut hi s t
  case fxval => exact fun hi => takeWrites_fxvalOut hi s t
  case packout => exact fun hhdr htrl hind => takeWrites_packout hhdr htrl hind s t

/-! ### What a decode depends on (R37, R56) -/

/-- Two states hold the same packet of `S` words, all of them supplied. -/
structure SamePacket (S : BitVec 16) (s s' : State) : Prop where
  supplied  : S.toNat ≤ s.nIn.toNat
  supplied' : S.toNat ≤ s'.nIn.toNat
  words     : ∀ k, k < S.toNat → s.ibufAt k = s'.ibufAt k

section
variable {S : BitVec 16} {s s' : State}

theorem SamePacket.memRead_eq (h : SamePacket S s s') (c : Config) {k : Nat} (hk : k < S.toNat) :
    memRead c s k = memRead c s' k := by
  rw [memRead, memRead, h.words k hk]

theorem SamePacket.memReadList_eq (h : SamePacket S s s') (c : Config) {a n : Nat}
    (hn : a + n ≤ S.toNat) : memReadList c s a n = memReadList c s' a n := by
  refine List.map_congr_left fun k hk => h.memRead_eq c ?_
  have := List.mem_range'_1.mp hk
  omega

theorem SamePacket.readPrologue_eq (h : SamePacket S s s') (c : Config) (hS : 5 ≤ S.toNat) :
    readPrologue c s = readPrologue c s' := by
  have hword : ∀ k, k < 5 → memRead c s k = memRead c s' k := fun k hk => h.memRead_eq c (by omega)
  simp [readPrologue, hword]

/-- R310: the entry checks look at `S`, at whether `S` words are supplied, and, from S = 5 on, at word 0. -/
theorem SamePacket.entryChecksOf_eq (h : SamePacket S s s') (c : Config) (want : BitVec 4)
    (kind : PacketType) : entryChecksOf c S want kind s = entryChecksOf c S want kind s' := by
  unfold entryChecksOf entryChecks
  by_cases hS : S.toNat < 5
  · rw [if_pos hS, if_pos hS]
  · rw [if_neg (Nat.not_lt.mpr h.supplied), if_neg (Nat.not_lt.mpr h.supplied'),
      h.memRead_eq c (by omega : 0 < S.toNat)]

/-- A field's value depends on the words of the field. -/
theorem decodeValue_congr (c : Config) (dec : FieldDec) {w w' : Nat → Word}
    (h : ∀ k, k < dec.width → w k = w' k) : decodeValue c dec w = decodeValue c dec w' := by
  cases dec <;> simp_all [decodeValue, decGeo, FieldDec.width, Config.geoWords]

/-- A row of the walk bounded by `S` depends on the words below `S`. -/
theorem walkRow_congr (c : Config) (S idx : Nat) (row : FieldRow) (present : Bool) {rd rd' : Nat → Word}
    (h : ∀ k, k < S → rd k = rd' k) (cur : Nat) (x : ContextRec) :
    walkRow c S idx row present rd cur x = walkRow c S idx row present rd' cur x := by
  unfold walkRow
  split
  · split
    · rfl
    next hfits =>
      rw [decodeValue_congr c row.dec fun k hk => h (cur + k) (by omega)]
  · rfl

theorem walk_congr (c : Config) (S : Nat) (ind : Word) {rd rd' : Nat → Word}
    (h : ∀ k, k < S → rd k = rd' k) (idx : Nat) (rows : List FieldRow) (cur : Nat) (x : ContextRec) :
    walk c S ind rd idx rows cur x = walk c S ind rd' idx rows cur x := by
  induction rows generalizing idx cur x with
  | nil => rfl
  | cons r rows ih => simp only [walk, walkRow_congr c S idx r _ h, ih]

theorem SamePacket.walkPacket_eq (h : SamePacket S s s') (c : Config) (hS : 6 ≤ S.toNat) :
    walkPacket c S s = walkPacket c S s' := by
  unfold walkPacket
  rw [h.memRead_eq c (by omega : 5 < S.toNat)]
  exact walk_congr c S.toNat _ (fun k hk => h.memRead_eq c hk) ..

/-- Entries that a run of writes covers read the same whatever stood there before. -/
theorem Memory.read_writeFrom_congr {w : Nat} (free : Nat → Nat → BitVec w) (m m' : Memory w)
    (vs : List (BitVec w)) {j : Nat} (hj : j < vs.length) :
    (m.writeFrom 0 vs).read free j = (m'.writeFrom 0 vs).read free j := by
  have hread : ∀ m : Memory w, (m.writeFrom 0 vs).read free j = vs[j] := fun m => by
    simpa using Memory.read_writeFrom_at free m (a := 0) vs hj
  rw [hread, hread]

theorem errorStatus_ne_ok (e : ErrorOutcome) : errorStatus e ≠ 0x10 := by
  cases e <;> simp

/-- What R37 compares after a decode in two states, whatever its outcome. -/
def SameOutcome (t t' : State) : Prop :=
  t.status = t'.status ∧ t.errinfo = t'.errinfo ∧ t.cur = t'.cur ∧ t.record.kind = t'.record.kind

/-- What R37 compares after a DECODE_DATA that ended OK: the prologue, the trailer and the samples counted. -/
def SameData (t t' : State) : Prop :=
  t.record.pro = t'.record.pro ∧ t.record.trl = t'.record.trl ∧ t.nsamp = t'.nsamp ∧
    ∀ j, j < t.nsamp.toNat → t.rawiqAt j = t'.rawiqAt j ∧ t.scaledAt j = t'.scaledAt j

/-- What R37 compares after a DECODE_CONTEXT that ended OK. -/
def SameContext (t t' : State) : Prop :=
  t.record.pro = t'.record.pro ∧ t.record.ctx = t'.record.ctx

theorem decodeDataBody_samePacket (h : SamePacket S s s') (c : Config) (ref : F64) (hS : 6 ≤ S.toNat) :
    SameOutcome (decodeDataBody c S ref s) (decodeDataBody c S ref s') ∧
      SameData (decodeDataBody c S ref s) (decodeDataBody c S ref s') := by
  have hpro := h.readPrologue_eq c (by omega : 5 ≤ S.toNat)
  have htrl := h.memRead_eq c (by omega : S.toNat - 1 < S.toNat)
  have hpayload := h.memReadList_eq c (by omega : 5 + (S.toNat - 6) ≤ S.toNat)
  simp only [decodeDataBody, hpro, htrl, hpayload]
  refine ⟨⟨rfl, rfl, rfl, rfl⟩, rfl, rfl, rfl, fun j hj => ?_⟩
  have hlen : j < 2 * (S.toNat - 6) := by
    simp only [complete_nsamp, BitVec.toNat_ofNat] at hj
    omega
  exact ⟨Memory.read_writeFrom_congr _ _ _ _ (by simpa using hlen),
    Memory.read_writeFrom_congr _ _ _ _ (by simpa using hlen)⟩

theorem decodeDataOp_samePacket (h : SamePacket S s s') (c : Config) (ref : F64) :
    SameOutcome (decodeDataOp c S ref s) (decodeDataOp c S ref s') ∧
      ((decodeDataOp c S ref s).status = 0x10 →
        SameData (decodeDataOp c S ref s) (decodeDataOp c S ref s')) := by
  unfold decodeDataOp
  rw [← h.entryChecksOf_eq]
  split
  next e _ => exact ⟨⟨rfl, rfl, rfl, rfl⟩, fun hok => absurd hok (errorStatus_ne_ok e)⟩
  next hentry =>
    obtain ⟨hS, -, -⟩ := (entryChecks_eq_none_iff ..).mp hentry
    obtain ⟨hout, hdata⟩ := decodeDataBody_samePacket h c ref hS
    exact ⟨hout, fun _ => hdata⟩

theorem decodeContextOp_samePacket (h : SamePacket S s s') (c : Config) :
    SameOutcome (decodeContextOp c S s) (decodeContextOp c S s') ∧
      ((decodeContextOp c S s).status = 0x10 →
        SameContext (decodeContextOp c S s) (decodeContextOp c S s')) := by
  unfold decodeContextOp
  rw [← h.entryChecksOf_eq]
  split
  next e _ => exact ⟨⟨rfl, rfl, rfl, rfl⟩, fun hok => absurd hok (errorStatus_ne_ok e)⟩
  next hentry =>
    obtain ⟨hS, -, -⟩ := (entryChecks_eq_none_iff ..).mp hentry
    rw [← h.walkPacket_eq c hS, ← h.readPrologue_eq c (by omega)]
    split
    next e _ => exact ⟨⟨rfl, rfl, rfl, rfl⟩, fun hok => absurd hok (errorStatus_ne_ok e)⟩
    next => exact ⟨⟨rfl, rfl, rfl, rfl⟩, fun _ => ⟨rfl, rfl⟩⟩

end

/-- Settles O52: the entry checks, the walk and the payload read no word past `S`, and what they write covers
the entries that NSAMP counts. -/
theorem decodesDependOnPacketAlone : Obligations.DecodesDependOnPacketAlone := by
  intro s s' S hsup hsup' hwords
  have h : SamePacket S s s' := ⟨hsup, hsup', hwords⟩
  constructor
  · intro ref t t' ht ht'
    cases ht
    cases ht'
    obtain ⟨⟨hstatus, herr, hcur, hkind⟩, hdata⟩ := decodeDataOp_samePacket h Config.phpc ref
    exact ⟨hstatus, herr, hcur, hkind, hdata⟩
  · intro t t' ht ht'
    cases ht
    cases ht'
    obtain ⟨⟨hstatus, herr, hcur, hkind⟩, hctx⟩ := decodeContextOp_samePacket h Config.phpc
    exact ⟨hstatus, herr, hcur, hkind, hctx⟩

end Sys2Proof.Machine
end

section
/-! PROOFS. Memory access and byte order (`spec/20_memory.md`): the value of a wire word (R51), and what every step
keeps of the address spaces (R50), the counts (R22, R23), STATUS and ERRINFO (R25, R26). -/

namespace Sys2Proof.Machine

/-! ### Byte order (R51) -/

/-- The byte reversal of four bytes: each of its slices is one of them. -/
theorem bswap32_append (b0 b1 b2 b3 : BitVec 8) : bswap32 (b3 ++ b2 ++ b1 ++ b0) = wireValue b0 b1 b2 b3 := by
  have hb0 : (b3 ++ b2 ++ b1 ++ b0).extractLsb' 0 8 = b0 := BitVec.extractLsb'_append_eq_right
  have hb1 : (b3 ++ b2 ++ b1 ++ b0).extractLsb' 8 8 = b1 :=
    (BitVec.extractLsb'_append_eq_of_le (by decide)).trans BitVec.extractLsb'_append_eq_right
  have hb2 : (b3 ++ b2 ++ b1 ++ b0).extractLsb' 16 8 = b2 :=
    (BitVec.extractLsb'_append_eq_of_le (by decide)).trans <|
      (BitVec.extractLsb'_append_eq_of_le (by decide)).trans BitVec.extractLsb'_append_eq_right
  have hb3 : (b3 ++ b2 ++ b1 ++ b0).extractLsb' 24 8 = b3 :=
    (BitVec.extractLsb'_append_eq_of_le (by decide)).trans <|
      (BitVec.extractLsb'_append_eq_of_le (by decide)).trans BitVec.extractLsb'_append_eq_left
  rw [bswap32, hb0, hb1, hb2, hb3, wireValue]

/-- R51: the normalizer undoes the host's own byte order. -/
theorem normWord_rawOfWire (c : Config) (b0 b1 b2 b3 : BitVec 8) :
    normWord c (rawOfWire c b0 b1 b2 b3) = wireValue b0 b1 b2 b3 := by
  unfold normWord rawOfWire
  split
  · rfl
  · exact bswap32_append b0 b1 b2 b3

theorem toNat_append_eq_add {m n : Nat} (x : BitVec m) (y : BitVec n) :
    (x ++ y).toNat = x.toNat * 2 ^ n + y.toNat := by
  rw [BitVec.toNat_append, ← Nat.shiftLeft_add_eq_or_of_lt y.isLt, Nat.shiftLeft_eq]

/-- R51: the first byte on the wire is the most significant. -/
theorem toNat_wireValue (b0 b1 b2 b3 : BitVec 8) :
    (wireValue b0 b1 b2 b3).toNat = b0.toNat * 2 ^ 24 + b1.toNat * 2 ^ 16 + b2.toNat * 2 ^ 8 + b3.toNat := by
  simp only [wireValue, toNat_append_eq_add]
  ring

/-- Settles O7: the word function undoes either host's raw form, and the wire word's number is the sum of its
bytes at their weights. -/
theorem normalizedWordIsWireValue : Obligations.NormalizedWordIsWireValue := by
  intro c b0 b1 b2 b3
  have hnorm := normWord_rawOfWire c b0 b1 b2 b3
  exact ⟨hnorm, (congrArg BitVec.toNat hnorm).trans (toNat_wireValue b0 b1 b2 b3)⟩

/-! ### The stores and their counts (R50, R22, R23) -/

/-- The part of the invariant that is about places of storage: the four memories canonical inside their spaces and
the two word counts in range. -/
structure StoresLegal (s : State) : Prop where
  ibuf   : s.ibuf.wf 65536 = true
  obuf   : s.obuf.wf 65536 = true
  rawiq  : s.rawiq.wf 131072 = true
  scaled : s.scaled.wf 131072 = true
  nIn    : s.nIn.toNat ≤ 65536
  nOut   : s.nOut.toNat ≤ 65536

theorem inv_iff (s : State) : s.Inv ↔ StoresLegal s ∧ statusLegal s.status s.errinfo := by
  constructor
  · rintro ⟨hibuf, hobuf, hrawiq, hscaled, hnIn, hnOut, hstatus⟩
    exact ⟨⟨hibuf, hobuf, hrawiq, hscaled, hnIn, hnOut⟩, hstatus⟩
  · rintro ⟨⟨hibuf, hobuf, hrawiq, hscaled, hnIn, hnOut⟩, hstatus⟩
    exact ⟨hibuf, hobuf, hrawiq, hscaled, hnIn, hnOut, hstatus⟩

/-- R301: the STATUS of an error outcome is legal, and its code asks nothing of ERRINFO. -/
theorem statusLegal_errorStatus (e : ErrorOutcome) (errinfo : BitVec 32) :
    statusLegal (errorStatus e) errinfo := by
  cases e <;> simp [statusLegal, statusCode]

section
variable {s : State}

/-- R305: what a failed operation makes unspecified begins a new epoch, and N_OUT takes a value of its range. -/
theorem StoresLegal.scramble (h : StoresLegal s) (op : Op) (e : ErrorOutcome) :
    StoresLegal (scramble op e s) := by
  cases op
  case decodeData | decodeContext => exact { h with rawiq := rfl, scaled := rfl }
  case encodeData | encodeContext =>
    have hnOut : (scrambleEncode s).nOut.toNat ≤ 65536 := by
      rw [scrambleEncode_nOut, BitVec.toNat_ofNat]
      omega
    exact { h with obuf := rfl, nOut := hnOut }
  case peek | toFixed => exact { h with }
  case normalize | toFloat | packHeader | packTrailer | packIndicator => exact h

/-- Every OK outcome over legal stores is legal. -/
theorem StoresLegal.inv_complete (h : StoresLegal s) : (complete s).Inv := by
  have hstores : StoresLegal (complete s) := { h with }
  exact (inv_iff _).mpr ⟨hstores, by simp [statusLegal]⟩

/-- Every error outcome over legal stores is legal. -/
theorem StoresLegal.inv_raiseError (h : StoresLegal s) (op : Op) (e : ErrorOutcome) :
    (raiseError op e s).Inv := by
  have hstores : StoresLegal (raiseError op e s) := { h.scramble op e with }
  exact (inv_iff _).mpr ⟨hstores, statusLegal_errorStatus e (errorInfo e)⟩

/-- A packet of words written to OBUF from index 0, with its size as N_OUT. -/
theorem StoresLegal.output (h : StoresLegal s) (ws : List Word) {size : BitVec 17}
    (hlen : ws.length ≤ 65536) (hsize : size.toNat ≤ 65536) :
    StoresLegal { s with obuf := s.obuf.writeFrom 0 ws, nOut := size } :=
  { h with obuf := Memory.wf_writeFrom ws (by omega) h.obuf, nOut := hsize }

/-! ### What each operation keeps -/

theorem StoresLegal.inv_normalizeOp (h : StoresLegal s) (c : Config) : (normalizeOp c s).Inv :=
  (h.output _ (by simpa using h.nIn) h.nIn).inv_complete

theorem StoresLegal.inv_peekOp (h : StoresLegal s) (c : Config) : (peekOp c s).Inv := by
  unfold peekOp
  split
  · exact h.inv_raiseError ..
  · have hpeeked : StoresLegal (peekWord c (memRead c s 0) s) := { h with }
    exact hpeeked.inv_complete

/-- R201: a packet of at most 65535 words has at most 131058 samples. -/
theorem StoresLegal.inv_decodeDataBody (h : StoresLegal s) (c : Config) (S : BitVec 16) (ref : F64) :
    (decodeDataBody c S ref s).Inv := by
  have hfits : 0 + 2 * (S.toNat - 6) ≤ 131072 := by have := S.isLt; omega
  refine StoresLegal.inv_complete { h with rawiq := ?_, scaled := ?_ }
  · exact Memory.wf_writeFrom _ (by simpa using hfits) h.rawiq
  · exact Memory.wf_writeFrom _ (by simpa using hfits) h.scaled

theorem StoresLegal.inv_decodeDataOp (h : StoresLegal s) (c : Config) (S : BitVec 16) (ref : F64) :
    (decodeDataOp c S ref s).Inv := by
  unfold decodeDataOp
  split
  · exact h.inv_raiseError ..
  · exact h.inv_decodeDataBody ..

theorem StoresLegal.inv_decodeContextOp (h : StoresLegal s) (c : Config) (S : BitVec 16) :
    (decodeContextOp c S s).Inv := by
  unfold decodeContextOp
  split
  · exact h.inv_raiseError ..
  · split
    · exact h.inv_raiseError ..
    · exact StoresLegal.inv_complete { h with }

/-- R220, R262: an encode that passes its size check writes a packet of at most 65535 words. -/
theorem StoresLegal.inv_encoded (h : StoresLegal s) (c : Config) {ws : List Word} {size : Nat}
    (hlen : ws.length = size) (hsize : ¬ Config.maxPacketWords < size) :
    (complete { memWrite c s 0 ws with nOut := BitVec.ofNat 17 size }).Inv := by
  have hmax : size ≤ 65535 := Nat.not_lt.mp hsize
  have hnOut : (BitVec.ofNat 17 size).toNat ≤ 65536 := by rw [BitVec.toNat_ofNat]; omega
  exact (h.output (ws.map (normWord c)) (by rw [List.length_map]; omega) hnOut).inv_complete

theorem StoresLegal.inv_encodeDataOp (h : StoresLegal s) (c : Config) : (encodeDataOp c s).Inv := by
  simp only [encodeDataOp]
  split
  · exact h.inv_raiseError ..
  next hsize => exact h.inv_encoded c (length_dataPacketWords c s) hsize

theorem StoresLegal.inv_encodeContextOp (h : StoresLegal s) (c : Config) : (encodeContextOp c s).Inv := by
  unfold encodeContextOp
  split
  · exact h.inv_raiseError ..
  · split
    · exact h.inv_raiseError ..
    next hsize => exact h.inv_encoded c (length_contextPacketWords ..) hsize

theorem StoresLegal.inv_toFixedOp (h : StoresLegal s) (c : Config) (x : F64) (frac : BitVec 6) (W : Nat) :
    (toFixedOp c x frac W s).Inv := by
  unfold toFixedOp
  split
  · exact h.inv_raiseError ..
  · exact StoresLegal.inv_complete { h with }

/-- R93: a row of the field table ends in the walk's error, or changes REC.ctx and CUR. -/
theorem inv_presentField (h : s.Inv) (c : Config) (idx : Nat) (row : FieldRow) :
    (presentField c idx row s).Inv := by
  unfold presentField
  split
  · exact ((inv_iff s).mp h).1.inv_raiseError ..
  · exact h

/-- R202: a pair is appended only where RAWIQ has two more entries (R50). -/
theorem inv_appendPair {x y : Sample} {t : State} (hs : s.Inv) (h : appendPair x y s = .next t) : t.Inv := by
  obtain ⟨hstores, hstatus⟩ := (inv_iff s).mp hs
  unfold appendPair at h
  split at h
  next hfits =>
    cases h
    exact (inv_iff _).mpr
      ⟨{ hstores with rawiq := Memory.wf_writeFrom [x, y] hfits hstores.rawiq }, hstatus⟩
  next => cases h

/-- Every instruction that answers a next state keeps the invariant. -/
theorem exec_keeps_inv {i : Instr} {t : State} (hs : s.Inv) (h : exec i s = .next t) : t.Inv := by
  have hstores := ((inv_iff s).mp hs).1
  by_cases hrow : isFieldRow i = true
  · obtain ⟨idx, row, hexec⟩ := exec_fieldRow hrow s
    rw [hexec] at h
    cases h
    exact inv_presentField hs ..
  · cases i
    case normalize => cases h; exact hstores.inv_normalizeOp ..
    case peek => cases h; exact hstores.inv_peekOp ..
    case decodeData S ref => cases h; exact hstores.inv_decodeDataOp ..
    case decodeContext S => cases h; exact hstores.inv_decodeContextOp ..
    case encodeData => rw [← encodeDataCommand_eq_next h]; exact hstores.inv_encodeDataOp ..
    case encodeContext => cases h; exact hstores.inv_encodeContextOp ..
    case toFixed x frac width =>
      obtain ⟨W, rfl⟩ := toFixedCommand_eq_next h
      exact hstores.inv_toFixedOp ..
    case toFloat n frac width =>
      obtain ⟨W, rfl⟩ := toFloatCommand_eq_next h
      exact StoresLegal.inv_complete { hstores with }
    case packHeader | packTrailer | packIndicator => cases h; exact StoresLegal.inv_complete { hstores with }
    case iq x y => exact inv_appendPair hs h
    case reservedOp0 | reservedOpC | reservedOpD | reservedOpE | reservedOpF => cases h
    case hdrData | hdrContext => cases h; exact hs
    case trlCalibratedTime | trlValidData | trlReferenceLock | trlOverRange | trlSampleLoss | trlCtxCount =>
      cases h; exact hs
    all_goals exact absurd rfl hrow

/-! ### What the caller's actions keep (R341, R347) -/

theorem inv_resetNow (s : State) : (resetNow s).Inv :=
  (inv_iff _).mpr ⟨⟨rfl, rfl, rfl, rfl, Nat.zero_le _, Nat.zero_le _⟩, .inl rfl, fun _ => rfl⟩

theorem inv_transportLoad {ws : List (BitVec 16 × Word)} {n : BitVec 17} {t : State} (hs : s.Inv)
    (h : transportLoad Config.phpc ws n s = .next t) : t.Inv := by
  obtain ⟨hstores, hstatus⟩ := (inv_iff s).mp hs
  obtain ⟨hn, rfl⟩ := (transportLoad_eq_next_iff ..).mp h
  exact (inv_iff _).mpr ⟨{ hstores with ibuf := wf_loadWords ws hstores.ibuf, nIn := hn }, hstatus⟩

theorem inv_hostWriteOne (hs : s.Inv) (w : HostWrite) : (hostWriteOne s w).Inv := by
  obtain ⟨hstores, hstatus⟩ := (inv_iff s).mp hs
  have hrawiq := wf_hostWriteOne s w hstores.rawiq
  rw [hostWriteOne_frame]
  exact (inv_iff _).mpr ⟨{ hstores with rawiq := hrawiq }, hstatus⟩

theorem inv_hostRecordWrite (hs : s.Inv) (ws : List HostWrite) : (hostRecordWrite ws s).Inv := by
  induction ws generalizing s with
  | nil => exact hs
  | cons w ws ih => exact ih (inv_hostWriteOne hs w)

theorem runAction_keeps_inv {a : Action} {t : State} (hs : s.Inv)
    (h : runAction Config.phpc exec a s = .next t) : t.Inv := by
  cases a with
  | fetch f =>
    obtain ⟨i, -, hexec⟩ := (runFetch_eq_next_iff ..).mp h
    exact exec_keeps_inv hs hexec
  | load ws n => exact inv_transportLoad hs h
  | hostWrite ws =>
    obtain ⟨-, rfl⟩ := (hostRecord_eq_next_iff ..).mp h
    exact inv_hostRecordWrite hs ws
  | reset => cases h; exact inv_resetNow s

end

/-- Settles O48: a step is idle or one action of the caller, and every action keeps the invariant. -/
theorem stepKeepsMachineLegal : Obligations.StepKeepsMachineLegal := by
  intro s t hs h
  rcases step_cases s with ⟨-, hidle⟩ | ⟨a, rest, -, hact⟩
  · rw [hidle] at h
    cases h
    exact hs
  · rw [hact] at h
    have hrest : ({ s with pending := rest } : State).Inv := hs
    exact runAction_keeps_inv hrest h

end Sys2Proof.Machine
end

section
/-! PROOFS. The encoding of the commands (`spec/30_encoding.md`): each operation's tuple decodes to it under any map of
distinct selectors (R81, R8), and the reserved encodings have no step (R82). -/

namespace Sys2Proof.Machine

/-! ### Selectors and operations (R81, R8 OPCODES) -/

theorem mem_operations (op : Op) : op ∈ Config.operations := by
  cases op <;> decide

theorem opcodes_injective {opcodes : Op → BitVec 4} (h : opcodesOk opcodes = true) :
    Function.Injective opcodes := fun op op' =>
  List.inj_on_of_nodup_map (of_decide_eq_true h) (mem_operations op) (mem_operations op')

/-- Under distinct selectors, the operation found for a code is the one that has it as its selector. -/
theorem operationOf_eq_some_iff {c : Config} (hc : opcodesOk c.opcodes = true) (code : BitVec 4) (op : Op) :
    operationOf c code = some op ↔ c.opcodes op = code := by
  have hsound : ∀ {op'}, operationOf c code = some op' → c.opcodes op' = code := fun h => by
    simpa using List.find?_some h
  refine ⟨hsound, fun hop => ?_⟩
  have hfound : (operationOf c code).isSome := List.find?_isSome.mpr ⟨op, mem_operations op, by simpa using hop⟩
  obtain ⟨op', h'⟩ := Option.isSome_iff_exists.mp hfound
  have hsame : op' = op := opcodes_injective hc ((hsound h').trans hop.symm)
  rw [h', hsame]

/-! ### Command tuples (R80, R81, R82) -/

/-- The instruction that a tuple gives an operation: the members that the operation reads. -/
def instrOfOperation (op : Op) (m : Cmd) : Instr :=
  match op with
  | .normalize => .normalize
  | .peek => .peek
  | .decodeData => .decodeData m.S m.ref
  | .decodeContext => .decodeContext m.S
  | .encodeData => .encodeData
  | .encodeContext => .encodeContext
  | .toFixed => .toFixed m.fxval m.frac m.width
  | .toFloat => .toFloat m.fxint m.frac m.width
  | .packHeader => .packHeader
  | .packTrailer => .packTrailer
  | .packIndicator => .packIndicator

/-- A tuple with an operation's selector decodes to the operation, unless its operands are reserved. -/
theorem decodeCommand_of_operation {c : Config} {m : Cmd} {op : Op} (hop : operationOf c m.op = some op)
    (hwf : (instrOfOperation op m).wf = true) : decodeCommand c m = .ok (instrOfOperation op m) := by
  unfold decodeCommand
  rw [hop]
  cases op
  case toFixed | toFloat => exact if_pos hwf
  all_goals rfl

/-- R82: the two conversions reject the reserved width. -/
theorem decodeCommand_of_reservedWidth {c : Config} {m : Cmd} {op : Op} (hop : operationOf c m.op = some op)
    (hconv : op = .toFixed ∨ op = .toFloat) (hwidth : m.width = 3) :
    decodeCommand c m = .error .reservedWidth := by
  have hbad : ¬ widthOk m.width = true := by simp [widthOk, hwidth]
  unfold decodeCommand
  rw [hop]
  rcases hconv with rfl | rfl
  · exact if_neg hbad
  · exact if_neg hbad

theorem decodeCommand_of_no_operation {c : Config} {m : Cmd} (hop : operationOf c m.op = none) :
    decodeCommand c m = decodeReserved m.op := by
  rw [decodeCommand, hop]

/-- R81: a command is encoded as a tuple with its operation's selector and its operands. -/
theorem encodeWith_command (c : Config) {i : Instr} (hi : isCommand i = true) :
    ∃ op m, encodeWith c i = .command m ∧ c.opcodes op = m.op ∧ instrOfOperation op m = i := by
  cases i
  case normalize => exact ⟨.normalize, _, rfl, rfl, rfl⟩
  case peek => exact ⟨.peek, _, rfl, rfl, rfl⟩
  case decodeData => exact ⟨.decodeData, _, rfl, rfl, rfl⟩
  case decodeContext => exact ⟨.decodeContext, _, rfl, rfl, rfl⟩
  case encodeData => exact ⟨.encodeData, _, rfl, rfl, rfl⟩
  case encodeContext => exact ⟨.encodeContext, _, rfl, rfl, rfl⟩
  case toFixed => exact ⟨.toFixed, _, rfl, rfl, rfl⟩
  case toFloat => exact ⟨.toFloat, _, rfl, rfl, rfl⟩
  case packHeader => exact ⟨.packHeader, _, rfl, rfl, rfl⟩
  case packTrailer => exact ⟨.packTrailer, _, rfl, rfl, rfl⟩
  case packIndicator => exact ⟨.packIndicator, _, rfl, rfl, rfl⟩
  all_goals exact nomatch hi

/-- Settles O56: the tuple of a command carries its operation's selector, which under distinct selectors is found as
that operation, and the operands that the operation reads back. -/
theorem commandsDecodeUnderAnyOpcodes : Obligations.CommandsDecodeUnderAnyOpcodes := by
  intro c i hc hi hwf
  obtain ⟨op, m, henc, hsel, rfl⟩ := encodeWith_command c hi
  have hop : operationOf c m.op = some op := (operationOf_eq_some_iff hc m.op op).mpr hsel
  rw [henc]
  exact decodeCommand_of_operation hop hwf

/-! ### The step of a fetched form (R346) -/

section
variable {s : State} {f : Fetch} {rest : List Action}

/-- What the decoder gives is run, with the fetch taken off the caller's actions. -/
theorem step_of_decode_ok {i : Instr} (h : s.pending = .fetch f :: rest) (hdec : decode f = .ok i) :
    step s = exec i { s with pending := rest } := by
  have hdec' : decodeWith Config.phpc f = .ok i := hdec
  simp only [step, runPending, h, runAction, runFetch, hdec']

/-- What the decoder rejects is refused. -/
theorem step_of_decode_error {why : Reject} (h : s.pending = .fetch f :: rest) (hdec : decode f = .error why) :
    step s = .refused (refusalOf why) := by
  have hdec' : decodeWith Config.phpc f = .error why := hdec
  simp only [step, runPending, h, runAction, runFetch, hdec']

end

/-! ### The reserved encodings (R82) -/

/-- A reserved selector is no operation's: it decodes to an instruction of its own, which every state refuses. -/
theorem reservedSelector_decodes_to_refused {code : BitVec 4}
    (h : code = 0x0 ∨ code = 0xC ∨ code = 0xD ∨ code = 0xE ∨ code = 0xF) :
    operationOf Config.phpc code = none ∧
      ∃ i, decodeReserved code = .ok i ∧ ∀ s, exec i s = .refused (.reservedCommand code) := by
  rcases h with rfl | rfl | rfl | rfl | rfl
  · exact ⟨rfl, .reservedOp0, rfl, fun _ => rfl⟩
  · exact ⟨rfl, .reservedOpC, rfl, fun _ => rfl⟩
  · exact ⟨rfl, .reservedOpD, rfl, fun _ => rfl⟩
  · exact ⟨rfl, .reservedOpE, rfl, fun _ => rfl⟩
  · exact ⟨rfl, .reservedOpF, rfl, fun _ => rfl⟩

/-- The selectors of the two conversions. -/
theorem operationOf_conversion {code : BitVec 4} (h : code = 0x7 ∨ code = 0x8) :
    ∃ op, operationOf Config.phpc code = some op ∧ (op = .toFixed ∨ op = .toFloat) := by
  rcases h with rfl | rfl
  · exact ⟨.toFixed, rfl, .inl rfl⟩
  · exact ⟨.toFloat, rfl, .inr rfl⟩

/-- Settles O5: as instructions by their meanings; as fetched commands because a reserved selector decodes to such an
instruction, and a conversion of width 3 is rejected by the decoder. -/
theorem reservedEncodingsAreRefused : Obligations.ReservedEncodingsAreRefused := by
  refine ⟨fun s => ⟨rfl, rfl, rfl, rfl, rfl⟩, fun s x n frac => ⟨rfl, rfl⟩, ?_⟩
  intro s m rest hpend
  constructor
  · intro hreserved
    obtain ⟨hnone, i, hdec, hexec⟩ := reservedSelector_decodes_to_refused hreserved
    have hok : decode (.command m) = .ok i := (decodeCommand_of_no_operation hnone).trans hdec
    rw [step_of_decode_ok hpend hok, hexec]
  · rintro ⟨hsel, hwidth⟩
    obtain ⟨op, hop, hconv⟩ := operationOf_conversion hsel
    exact step_of_decode_error hpend (decodeCommand_of_reservedWidth hop hconv hwidth)

end Sys2Proof.Machine
end

section
/-! PROOFS. The byte order normalizer (`spec/40_normalize.md`): the law of the word function (R122), and what NORMALIZE
writes and leaves unchanged (R123). -/

namespace Sys2Proof.Machine

/-! ### The word function (R121, R122) -/

/-- A word is its four bytes, most significant first. -/
theorem wireValue_bytes (w : Word) :
    wireValue (w.extractLsb' 24 8) (w.extractLsb' 16 8) (w.extractLsb' 8 8) (w.extractLsb' 0 8) = w := by
  have hhigh : w.extractLsb' 24 8 ++ w.extractLsb' 16 8 = w.extractLsb' 16 16 :=
    BitVec.extractLsb'_append_extractLsb'_eq_extractLsb' rfl
  have hupper : w.extractLsb' 16 16 ++ w.extractLsb' 8 8 = w.extractLsb' 8 24 :=
    BitVec.extractLsb'_append_extractLsb'_eq_extractLsb' rfl
  have hall : w.extractLsb' 8 24 ++ w.extractLsb' 0 8 = w.extractLsb' 0 32 :=
    BitVec.extractLsb'_append_extractLsb'_eq_extractLsb' rfl
  rw [wireValue, hhigh, hupper, hall, BitVec.extractLsb'_eq_self]

/-- The reversed bytes, reversed again, are the word's own. -/
theorem bswap32_involutive : Function.Involutive bswap32 := fun w =>
  (bswap32_append ..).trans (wireValue_bytes w)

/-- R122. -/
theorem normWord_involutive (c : Config) : Function.Involutive (normWord c) := by
  intro w
  unfold normWord
  split
  · rfl
  · exact bswap32_involutive w

/-- Settles O6: the bytes are the definition's; a buffer is normalized word by word, so the words' law is its law. -/
theorem normIsItsOwnInverse : Obligations.NormIsItsOwnInverse := by
  refine ⟨fun _ _ => rfl, normWord_involutive, fun c b => ?_⟩
  rw [List.map_map, (normWord_involutive c).comp_self, List.map_id]

/-! ### NORMALIZE (R123) -/

theorem exec_normalize (s : State) : exec .normalize s = .next (normalizeOp Config.phpc s) := rfl

section
variable (c : Config) (s : State)

@[simp] theorem normalizeOp_nOut : (normalizeOp c s).nOut = s.nIn := rfl

/-- NORMALIZE writes OBUF, N_OUT, STATUS and ERRINFO only. -/
theorem normalizeOp_frame :
    normalizeOp c s =
      { s with obuf := (normalizeOp c s).obuf, nOut := s.nIn, status := 0x10, errinfo := 0 } := rfl

variable {c s} {k : Nat}

theorem normalizeOp_obufAt_of_lt (hk : k < s.nIn.toNat) :
    (normalizeOp c s).obufAt k = normWord c (s.ibufAt k) := by
  have hlen : k < (memReadList c s 0 s.nIn.toNat).length := by simpa using hk
  calc (normalizeOp c s).obufAt k
    _ = (s.obuf.writeFrom 0 (memReadList c s 0 s.nIn.toNat)).read Config.freeObuf (0 + k) := by
      rw [Nat.zero_add]; rfl
    _ = memRead c s (0 + k) := (Memory.read_writeFrom_at _ _ _ hlen).trans (getElem_memReadList _ _ _ _ _ hlen)
    _ = normWord c (s.ibufAt k) := by rw [Nat.zero_add, memRead]

theorem normalizeOp_obufAt_of_ge (hk : s.nIn.toNat ≤ k) : (normalizeOp c s).obufAt k = s.obufAt k :=
  Memory.read_writeFrom_of_ge _ _ _ (by simpa using hk)

end

/-- A NORMALIZE of what a NORMALIZE put out gives the first one's input back (R122 at each word). -/
theorem normalizeOp_undoes_itself (c : Config) {s s' : State} (hcount : s'.nIn = s.nIn)
    (hwords : ∀ k, k < s.nIn.toNat → s'.ibufAt k = (normalizeOp c s).obufAt k) {k : Nat} (hk : k < s.nIn.toNat) :
    (normalizeOp c s').obufAt k = s.ibufAt k := by
  rw [normalizeOp_obufAt_of_lt (hcount ▸ hk), hwords k hk, normalizeOp_obufAt_of_lt hk]
  exact normWord_involutive c _

/-- Settles O8: NORMALIZE writes one run of words, word k of it the normalized word k, and the word function is its own
inverse. -/
theorem normalizeConvertsWholeBuffer : Obligations.NormalizeConvertsWholeBuffer := by
  constructor
  · intro s
    exact ⟨_, exec_normalize s, fun k => normalizeOp_obufAt_of_lt, fun k => normalizeOp_obufAt_of_ge,
      normalizeOp_frame ..⟩
  · intro s t s' t' ht hcount hwords ht'
    rw [exec_normalize] at ht ht'
    cases ht
    cases ht'
    exact ⟨hcount, fun k => normalizeOp_undoes_itself Config.phpc hcount hwords⟩

end Sys2Proof.Machine
end

section
/-! PROOFS. Numerics (R12, R150): what each mode rounds a number to, the number that a Float's bits denote, and the
Float nearest to a number. -/

namespace Sys2Proof.Machine

/-! ### The nearest integer (R12) -/

section
variable {r : ℚ} {i j : Int}

theorem NearestEven.abs_sub_le_half (h : NearestEven r i) : |r - i| ≤ 1 / 2 := by
  obtain h | ⟨h, -⟩ := h
  · exact h.le
  · exact h.le

/-- Two integers are at least 1 apart, so that one of them lies 1/2 or more from any number. -/
theorem half_le_abs_sub_of_ne (hne : i ≠ j) (h : |r - i| ≤ 1 / 2) : 1 / 2 ≤ |r - j| := by
  have hapart : (1 : ℚ) ≤ |(i : ℚ) - j| := by
    exact_mod_cast Int.one_le_abs (sub_ne_zero.mpr hne)
  have htri := abs_sub_le (i : ℚ) r j
  rw [abs_sub_comm (i : ℚ) r] at htri
  linarith

/-- No integer is nearer. -/
theorem NearestEven.abs_sub_le_abs_sub (h : NearestEven r i) (n : Int) : |r - i| ≤ |r - n| := by
  obtain rfl | hne := eq_or_ne i n
  · exact le_rfl
  · exact h.abs_sub_le_half.trans (half_le_abs_sub_of_ne hne h.abs_sub_le_half)

/-- Another integer as near: the one taken is even. -/
theorem NearestEven.even_of_tie (h : NearestEven r i) (hne : j ≠ i) (htie : |r - j| = |r - i|) : Even i := by
  obtain h | ⟨-, h⟩ := h
  · have := half_le_abs_sub_of_ne hne.symm h.le
    linarith
  · exact h

theorem NearestEven.unique (hi : NearestEven r i) (hj : NearestEven r j) : i = j := by
  by_contra hne
  have htie : |r - j| = |r - i| := le_antisymm (hj.abs_sub_le_abs_sub i) (hi.abs_sub_le_abs_sub j)
  have heven : Even i ∧ Even j := ⟨hi.even_of_tie (Ne.symm hne) htie, hj.even_of_tie hne htie.symm⟩
  have hapart : (2 : ℚ) ≤ |(i : ℚ) - j| := by
    obtain ⟨⟨a, ha⟩, ⟨b, hb⟩⟩ := heven
    have : 2 ≤ |i - j| := by rw [le_abs]; omega
    exact_mod_cast this
  have htri := abs_sub_le (i : ℚ) r j
  rw [abs_sub_comm (i : ℚ) r] at htri
  linarith [hi.abs_sub_le_half, hj.abs_sub_le_half]

/-- A bound by an integer and a half is a bound by the integer. -/
theorem NearestEven.le_of_lt_add_half (h : NearestEven r i) {n : Int} (hr : r < n + 1 / 2) : i ≤ n := by
  have := (abs_le.mp h.abs_sub_le_half).1
  have hlt : (i : ℚ) < n + 1 := by linarith
  exact Int.lt_add_one_iff.mp (by exact_mod_cast hlt)

theorem NearestEven.le_of_intCast_le (h : NearestEven r i) {n : Int} (hr : (n : ℚ) ≤ r) : n ≤ i := by
  have := (abs_le.mp h.abs_sub_le_half).2
  have hlt : (n : ℚ) < i + 1 := by linarith
  exact Int.lt_add_one_iff.mp (by exact_mod_cast hlt)

end

/-! ### Rounding a magnitude (R12) -/

/-- R12 `rint`: whether `q + f`, for a fraction `f` of 1, is rounded to `q + 1` and not to `q`. -/
def RoundsUp (mode : FxRound) (q : Nat) (f : ℚ) : Prop :=
  match mode with
  | .trunc => False
  | .nearestEven => 1 / 2 < f ∨ (f = 1 / 2 ∧ q % 2 = 1)
  | .nearestAway => 1 / 2 ≤ f

/-- `i` is what `mode` rounds the number `r ≥ 0` to: the integer below it or the next one. -/
def Rounds (mode : FxRound) (r : ℚ) (i : Nat) : Prop :=
  ∃ (q : Nat) (f : ℚ), r = q + f ∧ 0 ≤ f ∧ f < 1 ∧ ((i = q + 1 ∧ RoundsUp mode q f) ∨ (i = q ∧ ¬RoundsUp mode q f))

theorem rounds_natCast (mode : FxRound) (n : Nat) : Rounds mode n n := by
  refine ⟨n, 0, (add_zero _).symm, le_rfl, one_pos, .inr ⟨rfl, ?_⟩⟩
  cases mode <;> norm_num [RoundsUp]

/-- The test that `roundMag` makes on the remainder is the one on the fraction that it stands for. -/
theorem rounds_roundMag (mode : FxRound) (m k : Nat) : Rounds mode ((m : ℚ) / 2 ^ k) (roundMag mode m k) := by
  have hpow : (0 : ℚ) < 2 ^ k := by positivity
  have hsplit : (m : ℚ) = 2 ^ k * (m / 2 ^ k : Nat) + (m % 2 ^ k : Nat) := by
    exact_mod_cast (Nat.div_add_mod m (2 ^ k)).symm
  have hmod : m % 2 ^ k < 2 ^ k := Nat.mod_lt m (Nat.two_pow_pos k)
  simp only [roundMag]
  generalize m / 2 ^ k = q at hsplit ⊢
  generalize m % 2 ^ k = r at hsplit hmod ⊢
  refine ⟨q, r / 2 ^ k, by rw [hsplit]; field_simp, by positivity, ?_, ?_⟩
  · rw [div_lt_one hpow]
    exact_mod_cast hmod
  · have habove : (1 : ℚ) / 2 < r / 2 ^ k ↔ 2 ^ k < 2 * r := by
      rw [div_lt_div_iff₀ two_pos hpow, one_mul, mul_comm (r : ℚ)]
      norm_cast
    have htie : (r : ℚ) / 2 ^ k = 1 / 2 ↔ 2 * r = 2 ^ k := by
      rw [div_eq_div_iff hpow.ne' two_ne_zero, one_mul, mul_comm (r : ℚ)]
      norm_cast
    have hfrom : (1 : ℚ) / 2 ≤ r / 2 ^ k ↔ 2 ^ k ≤ 2 * r := by
      rw [div_le_div_iff₀ two_pos hpow, one_mul, mul_comm (r : ℚ)]
      norm_cast
    cases mode with
    | trunc => exact .inr ⟨rfl, id⟩
    | nearestEven =>
      simp only [RoundsUp, habove, htie]
      split
      · exact .inl ⟨rfl, ‹_›⟩
      · exact .inr ⟨rfl, ‹_›⟩
    | nearestAway =>
      simp only [RoundsUp, hfrom]
      split
      · exact .inl ⟨rfl, ‹_›⟩
      · exact .inr ⟨rfl, ‹_›⟩

/-- Where the exponent is not negative there is no fraction; where it is, the number is a quotient. -/
theorem rounds_rintMag (mode : FxRound) (m : Nat) (e : Int) :
    Rounds mode ((m : ℚ) * 2 ^ e) (rintMag mode m e) := by
  unfold rintMag
  split
  · next he =>
    obtain ⟨n, rfl⟩ := Int.eq_ofNat_of_zero_le he
    have hint : (m : ℚ) * 2 ^ (n : Int) = (m * 2 ^ n : Nat) := by push_cast; rw [zpow_natCast]
    rw [hint]
    exact rounds_natCast ..
  · next he =>
    have hdiv : (m : ℚ) * 2 ^ e = m / 2 ^ (-e).toNat := by
      rw [div_eq_mul_inv, ← zpow_natCast, ← zpow_neg, Int.toNat_of_nonneg (by omega), neg_neg]
    rw [hdiv]
    exact rounds_roundMag ..

section
variable {mode : FxRound} {r : ℚ} {i : Nat}

/-- Every mode gives an integer for itself. -/
theorem Rounds.eq_of_natCast {n : Nat} (h : Rounds mode n i) : i = n := by
  obtain ⟨q, f, hr, hge, hlt, hi⟩ := h
  have hq : n = q := by
    have hle : q < n + 1 := by exact_mod_cast (by linarith : (q : ℚ) < n + 1)
    have hlt : n < q + 1 := by exact_mod_cast (by linarith : (n : ℚ) < q + 1)
    omega
  obtain rfl : f = 0 := by rw [hq] at hr; linarith
  obtain ⟨-, hup⟩ | ⟨rfl, -⟩ := hi
  · cases mode <;> norm_num [RoundsUp] at hup
  · exact hq.symm

theorem Rounds.nearestEven (h : Rounds .nearestEven r i) : NearestEven r i := by
  obtain ⟨q, f, rfl, hge, hlt, ⟨rfl, habove | ⟨rfl, hodd⟩⟩ | ⟨rfl, hdown⟩⟩ := h
  · refine .inl (abs_lt.mpr ?_)
    push_cast
    constructor <;> linarith
  · refine .inr ⟨?_, ?_⟩
    · push_cast
      rw [abs_eq (by norm_num)]
      right; ring
    · rw [Int.even_coe_nat, Nat.even_iff]
      omega
  · simp only [RoundsUp, not_or, not_lt, not_and] at hdown
    obtain ⟨hbelow, htie⟩ := hdown
    have hdist : |(i : ℚ) + f - ((i : Int) : ℚ)| = f := by
      rw [Int.cast_natCast, add_sub_cancel_left, abs_of_nonneg hge]
    rw [NearestEven, hdist, Int.even_coe_nat, Nat.even_iff]
    obtain hlt | heq := hbelow.lt_or_eq
    · exact .inl hlt
    · exact .inr ⟨heq, by have := htie heq; omega⟩

/-- Both nearest modes keep to within a half. -/
theorem Rounds.abs_sub_le_half (hmode : mode ≠ .trunc) (h : Rounds mode r i) : |r - i| ≤ 1 / 2 := by
  cases mode with
  | trunc => exact absurd rfl hmode
  | nearestEven => exact_mod_cast h.nearestEven.abs_sub_le_half
  | nearestAway =>
    obtain ⟨q, f, rfl, hge, hlt, ⟨rfl, hup⟩ | ⟨rfl, hdown⟩⟩ := h
    · have : 1 / 2 ≤ f := hup
      rw [abs_le]
      push_cast
      constructor <;> linarith
    · have : f < 1 / 2 := not_le.mp hdown
      rw [abs_le]
      constructor <;> linarith

/-- TRUNC drops the fraction. -/
theorem Rounds.abs_sub_lt_one (h : Rounds .trunc r i) : |r - i| < 1 := by
  obtain ⟨q, f, rfl, hge, hlt, ⟨-, hup⟩ | ⟨rfl, -⟩⟩ := h
  · exact hup.elim
  · rwa [add_sub_cancel_left, abs_of_nonneg hge]

end

/-! ### The sign of a Float (R150, R143) -/

/-- The factor that a sign bit stands for. -/
def signFactor (neg : Bool) : Int := if neg then -1 else 1

theorem abs_signFactor (neg : Bool) : |(signFactor neg : ℚ)| = 1 := by
  cases neg <;> norm_num [signFactor]

/-- A sign changes no distance. -/
theorem abs_signFactor_mul_sub (neg : Bool) (a b : ℚ) : |signFactor neg * a - signFactor neg * b| = |a - b| := by
  rw [← mul_sub, abs_mul, abs_signFactor, one_mul]

theorem NearestEven.signFactor_mul {r : ℚ} {i : Int} (h : NearestEven r i) (neg : Bool) :
    NearestEven (signFactor neg * r) (signFactor neg * i) := by
  have hpar : Even (signFactor neg * i) ↔ Even i := by cases neg <;> simp [signFactor]
  rw [NearestEven, Int.cast_mul, abs_signFactor_mul_sub, hpar]
  exact h

/-- An integer is its sign times its magnitude. -/
theorem signFactor_mul_natAbs (v : Int) : signFactor (decide (v < 0)) * (v.natAbs : Int) = v := by
  unfold signFactor
  split
  · next h => have := of_decide_eq_true h; omega
  · next h => have := of_decide_eq_false (Bool.eq_false_iff.mpr h); omega

theorem floatValue_eq (fmt : FloatFmt) (x : F64) :
    floatValue fmt x = signFactor (floatSign fmt x) * (floatMant fmt x * 2 ^ floatScale fmt x) := by
  rw [floatValue, signFactor, mul_assoc]
  split <;> norm_num

/-! ### The fields of a Float (R150) -/

theorem floatExp_eq (x : F64) : floatExp .binary64 x = x.toNat / 2 ^ 52 % 2 ^ 11 := by
  show (x.extractLsb' 52 11).toNat = _
  rw [BitVec.extractLsb'_toNat, Nat.shiftRight_eq_div_pow]

theorem floatFrac_eq (x : F64) : floatFrac .binary64 x = x.toNat % 2 ^ 52 := by
  show (x.extractLsb' 0 52).toNat = _
  rw [BitVec.extractLsb'_toNat, Nat.shiftRight_zero]

theorem floatSign_eq (x : F64) : floatSign .binary64 x = decide (2 ^ 63 ≤ x.toNat) :=
  BitVec.msb_eq_decide x

theorem toNat_floatOf (neg : Bool) {mag : Nat} (h : mag < 2 ^ 63) :
    (floatOf .binary64 neg mag).toNat = neg.toNat * 2 ^ 63 + mag := by
  show ((BitVec.ofBool neg).setWidth 64 <<< 63 ||| BitVec.ofNat 64 mag).toNat = _
  cases neg
  · simpa using h.trans (by norm_num)
  · rw [BitVec.toNat_or, BitVec.toNat_ofNat, Nat.mod_eq_of_lt (by omega : mag < 2 ^ 64), Bool.toNat_true, one_mul]
    exact (Nat.two_pow_add_eq_or_of_lt h 1).symm

section
variable (neg : Bool) {mag : Nat} (h : mag < 2 ^ 63)
include h

theorem floatSign_floatOf : floatSign .binary64 (floatOf .binary64 neg mag) = neg := by
  rw [floatSign_eq, toNat_floatOf neg h]
  cases neg
  · exact decide_eq_false (by simpa using h)
  · exact decide_eq_true (by simp)

theorem floatExp_floatOf : floatExp .binary64 (floatOf .binary64 neg mag) = mag / 2 ^ 52 := by
  rw [floatExp_eq, toNat_floatOf neg h]
  omega

theorem floatFrac_floatOf : floatFrac .binary64 (floatOf .binary64 neg mag) = mag % 2 ^ 52 := by
  rw [floatFrac_eq, toNat_floatOf neg h]
  omega

/-- The low bit of the significand is the low bit of the Float. -/
theorem getLsbD_zero_floatOf : (floatOf .binary64 neg mag).getLsbD 0 = decide (mag % 2 = 1) := by
  rw [BitVec.getLsbD, toNat_floatOf neg h, Nat.testBit_zero]
  congr 2
  omega

end

theorem floatMant_eq (x : F64) : floatMant .binary64 x =
    if floatExp .binary64 x = 0 then floatFrac .binary64 x else 2 ^ 52 + floatFrac .binary64 x := rfl

theorem floatScale_eq (x : F64) : floatScale .binary64 x =
    if floatExp .binary64 x = 0 then -1074 else (floatExp .binary64 x : Int) - 1 + -1074 := rfl

theorem floatIsFinite_iff (x : F64) : floatIsFinite .binary64 x = true ↔ floatExp .binary64 x ≠ 2047 :=
  bne_iff_ne

theorem floatMant_lt (x : F64) : floatMant .binary64 x < 2 ^ 53 := by
  have hfrac : floatFrac .binary64 x < 2 ^ 52 := by rw [floatFrac_eq]; exact Nat.mod_lt _ (by norm_num)
  rw [floatMant_eq]
  split <;> omega

theorem neg_1074_le_floatScale (x : F64) : -1074 ≤ floatScale .binary64 x := by
  rw [floatScale_eq]
  split <;> omega

/-- A finite Float's bits are those of its exponent above those of its significand, whose leading 1 counts as one of
the exponent's; a carry out of the significand moves the exponent (R12 `round_FMT`). -/
theorem floatMant_floatScale_floatOf (neg : Bool) {b sig : Nat} (hsig : sig ≤ 2 ^ 53) (hnormal : 0 < b → 2 ^ 52 ≤ sig)
    (hfits : b * 2 ^ 52 + sig < 2 ^ 63) :
    (floatMant .binary64 (floatOf .binary64 neg (b * 2 ^ 52 + sig)) : ℚ) *
      2 ^ floatScale .binary64 (floatOf .binary64 neg (b * 2 ^ 52 + sig)) = sig * 2 ^ ((b : Int) - 1074) := by
  rw [floatMant_eq, floatScale_eq, floatExp_floatOf neg hfits, floatFrac_floatOf neg hfits]
  obtain hsub | hnorm | rfl : sig < 2 ^ 52 ∨ (2 ^ 52 ≤ sig ∧ sig < 2 ^ 53) ∨ sig = 2 ^ 53 := by omega
  · obtain rfl : b = 0 := by omega
    have hexp : (0 * 2 ^ 52 + sig) / 2 ^ 52 = 0 := by omega
    have hfrac : (0 * 2 ^ 52 + sig) % 2 ^ 52 = sig := by omega
    rw [hexp, hfrac]
    rfl
  · have hexp : (b * 2 ^ 52 + sig) / 2 ^ 52 = b + 1 := by omega
    have hfrac : 2 ^ 52 + (b * 2 ^ 52 + sig) % 2 ^ 52 = sig := by omega
    rw [hexp, if_neg b.succ_ne_zero, if_neg b.succ_ne_zero, hfrac]
    congr 2
    push_cast
    ring
  · have hexp : (b * 2 ^ 52 + 2 ^ 53) / 2 ^ 52 = b + 2 := by omega
    have hfrac : 2 ^ 52 + (b * 2 ^ 52 + 2 ^ 53) % 2 ^ 52 = 2 ^ 52 := by omega
    have hscale : ((b + 2 : Nat) : Int) - 1 + -1074 = ((b : Int) - 1074) + 1 := by push_cast; ring
    rw [hexp, if_neg (b + 1).succ_ne_zero, if_neg (b + 1).succ_ne_zero, hfrac, hscale, zpow_add_one₀ two_ne_zero]
    push_cast
    ring

/-! ### Rounding to a Float (R12) -/

theorem two_zpow_natCast_add (k : Nat) (e : Int) : (2 : ℚ) ^ ((k : Int) + e) = 2 ^ k * 2 ^ e := by
  rw [zpow_add₀ two_ne_zero, zpow_natCast]

/-- The terms of the overflow threshold, over one factor. -/
theorem two_pow_1024_eq : (2 : ℚ) ^ 1024 = 2 ^ 54 * 2 ^ 970 := by rw [← pow_add]

/-- `x` is the Float of `± sig` units of `2^q`, where `sig` is `r / 2^q` rounded, and `2^q` is the least unit that there
is or one of which `r` has 53 binary digits. -/
structure RoundedAt (neg : Bool) (r : ℚ) (q : Int) (sig : Nat) (x : F64) : Prop where
  finite : floatIsFinite .binary64 x = true
  value : floatValue .binary64 x = signFactor neg * (sig * 2 ^ q)
  lowBit : Even sig → x.getLsbD 0 = false
  nearest : NearestEven (r / 2 ^ q) sig
  unit : q = -1074 ∨ 2 ^ 52 * 2 ^ q ≤ r

/-- The power of two that `roundToFloatMag` takes as the unit in the last place. -/
def roundScale (m : Nat) (e : Int) : Int := max ((Nat.log2 m : Int) + e - 52) (-1074)

/-- The significand that `roundToFloatMag` rounds to. -/
def roundSignificand (m : Nat) (e : Int) : Nat := rintMag .nearestEven m (e - roundScale m e)

theorem roundToFloatMag_eq {m : Nat} (hm : m ≠ 0) (e : Int)
    (hfits : (roundScale m e + 1074).toNat * 2 ^ 52 + roundSignificand m e < 2047 * 2 ^ 52) :
    roundToFloatMag .binary64 m e = (roundScale m e + 1074).toNat * 2 ^ 52 + roundSignificand m e := by
  rw [roundToFloatMag, if_neg hm]
  exact if_neg (not_le.mpr hfits)

section
variable {m : Nat} (e : Int)

theorem lt_two_pow_mul_roundScale : (m : ℚ) * 2 ^ e < 2 ^ 53 * 2 ^ roundScale m e := by
  have hlog : (m : ℚ) < 2 ^ (m.log2 + 1) := by exact_mod_cast Nat.lt_log2_self
  calc (m : ℚ) * 2 ^ e
    _ < 2 ^ (m.log2 + 1) * 2 ^ e := by gcongr
    _ = 2 ^ (((m.log2 + 1 : Nat) : Int) + e) := (two_zpow_natCast_add ..).symm
    _ ≤ 2 ^ (53 + roundScale m e) := zpow_le_zpow_right₀ one_le_two (by unfold roundScale; omega)
    _ = 2 ^ 53 * 2 ^ roundScale m e := two_zpow_natCast_add 53 _

theorem nearestEven_roundSignificand :
    NearestEven ((m : ℚ) * 2 ^ e / 2 ^ roundScale m e) (roundSignificand m e) := by
  rw [mul_div_assoc, ← zpow_sub₀ two_ne_zero]
  exact (rounds_rintMag ..).nearestEven

theorem roundSignificand_le : roundSignificand m e ≤ 2 ^ 53 := by
  have hlt : (m : ℚ) * 2 ^ e / 2 ^ roundScale m e < (2 ^ 53 : Int) + 1 / 2 := by
    rw [div_lt_iff₀ (by positivity)]
    refine (lt_two_pow_mul_roundScale e).trans ?_
    gcongr
    norm_num
  exact_mod_cast (nearestEven_roundSignificand e).le_of_lt_add_half hlt

variable (hm : m ≠ 0)
include hm

theorem roundScale_eq_or_le : roundScale m e = -1074 ∨ (2 : ℚ) ^ 52 * 2 ^ roundScale m e ≤ m * 2 ^ e := by
  obtain hmin | hnormal : roundScale m e = -1074 ∨ roundScale m e = m.log2 + e - 52 := by unfold roundScale; omega
  · exact .inl hmin
  · right
    have hlog : (2 : ℚ) ^ m.log2 ≤ m := by exact_mod_cast Nat.log2_self_le hm
    calc (2 : ℚ) ^ 52 * 2 ^ roundScale m e
      _ = 2 ^ (52 + roundScale m e) := (two_zpow_natCast_add 52 _).symm
      _ = 2 ^ ((m.log2 : Int) + e) := by rw [hnormal]; congr 1; ring
      _ = 2 ^ m.log2 * 2 ^ e := two_zpow_natCast_add ..
      _ ≤ m * 2 ^ e := by gcongr

theorem le_roundSignificand (hnormal : roundScale m e ≠ -1074) : 2 ^ 52 ≤ roundSignificand m e := by
  have hle : ((2 ^ 52 : Int) : ℚ) ≤ (m : ℚ) * 2 ^ e / 2 ^ roundScale m e := by
    rw [le_div_iff₀ (by positivity)]
    exact_mod_cast (roundScale_eq_or_le e hm).resolve_left hnormal
  exact_mod_cast (nearestEven_roundSignificand e).le_of_intCast_le hle

/-- R12: below the middle between the greatest Float and the next power of two, the rounding does not overflow. -/
theorem roundToFloat_bits_lt (h : (m : ℚ) * 2 ^ e < 2 ^ 1024 - 2 ^ 970) :
    (roundScale m e + 1074).toNat * 2 ^ 52 + roundSignificand m e < 2047 * 2 ^ 52 := by
  have hsig := roundSignificand_le (m := m) e
  have hscale : roundScale m e ≤ 971 := by
    obtain hmin | hle := roundScale_eq_or_le e hm
    · omega
    · have hlt : (2 : ℚ) ^ (52 + roundScale m e) < 2 ^ (1024 : Int) := by
        calc (2 : ℚ) ^ (52 + roundScale m e)
          _ = 2 ^ 52 * 2 ^ roundScale m e := two_zpow_natCast_add 52 _
          _ < 2 ^ (1024 : Int) := hle.trans_lt (h.trans (by norm_num))
      have := (zpow_lt_zpow_iff_right₀ one_lt_two).mp hlt
      omega
  obtain htop | hbelow := hscale.eq_or_lt
  · have hlt : (m : ℚ) * 2 ^ e / 2 ^ roundScale m e < (2 ^ 53 - 1 : Int) + 1 / 2 := by
      have hunit : (2 : ℚ) ^ (971 : Int) = 2 * 2 ^ 970 := by rw [zpow_ofNat, pow_succ']
      rw [div_lt_iff₀ (by positivity), htop, hunit]
      rw [two_pow_1024_eq] at h
      generalize (2 : ℚ) ^ 970 = u at h ⊢
      push_cast
      linarith
    have := (nearestEven_roundSignificand e).le_of_lt_add_half hlt
    omega
  · omega

end

theorem roundedAt_floatOf (neg : Bool) {r : ℚ} {b sig : Nat} (hsig : sig ≤ 2 ^ 53) (hnormal : 0 < b → 2 ^ 52 ≤ sig)
    (hfits : b * 2 ^ 52 + sig < 2047 * 2 ^ 52) (hnearest : NearestEven (r / 2 ^ ((b : Int) - 1074)) sig)
    (hunit : (b : Int) - 1074 = -1074 ∨ 2 ^ 52 * 2 ^ ((b : Int) - 1074) ≤ r) :
    RoundedAt neg r ((b : Int) - 1074) sig (floatOf .binary64 neg (b * 2 ^ 52 + sig)) where
  finite := by
    rw [floatIsFinite_iff, floatExp_floatOf neg (by omega)]
    omega
  value := by
    rw [floatValue_eq, floatSign_floatOf neg (by omega),
      floatMant_floatScale_floatOf neg hsig hnormal (by omega)]
  lowBit heven := by
    rw [getLsbD_zero_floatOf neg (by omega), decide_eq_false_iff_not]
    rw [Nat.even_iff] at heven
    omega
  nearest := hnearest
  unit := hunit

/-- R12 `round_FMT`, where it does not overflow. -/
theorem exists_roundedAt_roundToFloat (neg : Bool) {m : Nat} {e : Int} (h : (m : ℚ) * 2 ^ e < 2 ^ 1024 - 2 ^ 970) :
    ∃ q sig, RoundedAt neg ((m : ℚ) * 2 ^ e) q sig (roundToFloat .binary64 neg m e) := by
  obtain rfl | hm := eq_or_ne m 0
  · refine ⟨_, _, roundedAt_floatOf (b := 0) (sig := 0) neg (by norm_num) (by omega) (by norm_num)
      (.inl ?_) (.inl rfl)⟩
    simp
  · have hscale : ((roundScale m e + 1074).toNat : Int) - 1074 = roundScale m e := by unfold roundScale; omega
    rw [roundToFloat, roundToFloatMag_eq hm e (roundToFloat_bits_lt e hm h)]
    refine ⟨_, _, roundedAt_floatOf neg (roundSignificand_le e) (fun hpos => le_roundSignificand e hm (by omega))
      (roundToFloat_bits_lt e hm h) ?_ ?_⟩
    · rw [hscale]
      exact nearestEven_roundSignificand e
    · rw [hscale]
      exact roundScale_eq_or_le e hm

/-! ### The nearest Float (R12) -/

/-- For a rational number the distances are rational. -/
theorem nearestFloat_ratCast (r : ℚ) (x : F64) :
    NearestFloat .binary64 (r : ℝ) x ↔ floatIsFinite .binary64 x = true ∧
      ∀ y : F64, floatIsFinite .binary64 y = true →
        |floatValue .binary64 x - r| ≤ |floatValue .binary64 y - r| ∧
        (floatValue .binary64 y ≠ floatValue .binary64 x →
          |floatValue .binary64 y - r| = |floatValue .binary64 x - r| → x.getLsbD 0 = false) := by
  unfold NearestFloat
  norm_cast

/-- A Float whose own unit is no finer than `2^q` is a whole number of these. -/
theorem exists_floatValue_eq_mul {y : F64} {q : Int} (h : q ≤ floatScale .binary64 y) :
    ∃ n : Int, floatValue .binary64 y = n * 2 ^ q := by
  refine ⟨signFactor (floatSign .binary64 y) * (floatMant .binary64 y * 2 ^ (floatScale .binary64 y - q).toNat), ?_⟩
  have hpow : (2 : ℚ) ^ floatScale .binary64 y = 2 ^ (floatScale .binary64 y - q).toNat * 2 ^ q := by
    rw [← zpow_natCast, ← zpow_add₀ two_ne_zero, Int.toNat_of_nonneg (by omega), sub_add_cancel]
  rw [floatValue_eq, hpow]
  push_cast
  ring

/-- A Float whose own unit is finer than `2^q` is below the numbers that have 53 binary digits of unit `2^q`. -/
theorem abs_floatValue_lt {y : F64} {q : Int} (h : floatScale .binary64 y < q) :
    |floatValue .binary64 y| < 2 ^ 52 * 2 ^ q := by
  have hmant : (floatMant .binary64 y : ℚ) < 2 ^ 53 := by exact_mod_cast floatMant_lt y
  have hpos : (0 : ℚ) ≤ floatMant .binary64 y * 2 ^ floatScale .binary64 y := by positivity
  rw [floatValue_eq, abs_mul, abs_signFactor, one_mul, abs_of_nonneg hpos]
  calc (floatMant .binary64 y : ℚ) * 2 ^ floatScale .binary64 y
    _ < 2 ^ 53 * 2 ^ floatScale .binary64 y := by gcongr
    _ ≤ 2 ^ 53 * 2 ^ (q - 1) := by
      gcongr
      · norm_num
      · omega
    _ = 2 ^ 52 * 2 ^ q := by rw [zpow_sub_one₀ two_ne_zero]; ring

/-- Distances to whole numbers of the unit are distances of integers, scaled. -/
theorem abs_mul_zpow_sub (q n : Int) (r : ℚ) : |(n : ℚ) * 2 ^ q - r| = |r / 2 ^ q - n| * 2 ^ q := by
  have hpos : (0 : ℚ) < 2 ^ q := by positivity
  rw [abs_sub_comm, ← abs_of_pos hpos, ← abs_mul, abs_of_pos hpos, sub_mul, div_mul_cancel₀ _ hpos.ne']

section
variable {neg : Bool} {r : ℚ} {q : Int} {sig : Nat} {x : F64}

theorem RoundedAt.value_eq (h : RoundedAt neg r q sig x) :
    floatValue .binary64 x = ((signFactor neg * sig : Int) : ℚ) * 2 ^ q := by
  rw [h.value]
  push_cast
  ring

theorem RoundedAt.nearestEven (h : RoundedAt neg r q sig x) :
    NearestEven (signFactor neg * r / 2 ^ q) (signFactor neg * sig) := by
  rw [mul_div_assoc]
  exact h.nearest.signFactor_mul neg

/-- No whole number of units is nearer. -/
theorem RoundedAt.abs_sub_le (h : RoundedAt neg r q sig x) (n : Int) :
    |floatValue .binary64 x - signFactor neg * r| ≤ |(n : ℚ) * 2 ^ q - signFactor neg * r| := by
  rw [h.value_eq, abs_mul_zpow_sub, abs_mul_zpow_sub]
  exact mul_le_mul_of_nonneg_right (h.nearestEven.abs_sub_le_abs_sub n) (by positivity)

/-- A Float with a finer unit of its own is farther away than the least number with 53 digits of the unit. -/
theorem RoundedAt.abs_sub_lt (h : RoundedAt neg r q sig x) {y : F64} (hy : floatScale .binary64 y < q) :
    |floatValue .binary64 x - signFactor neg * r| < |floatValue .binary64 y - signFactor neg * r| := by
  have hle : 2 ^ 52 * 2 ^ q ≤ r := h.unit.resolve_left (by have := neg_1074_le_floatScale y; omega)
  have hbelow := abs_floatValue_lt hy
  have hr : 0 ≤ r := le_trans (by positivity) hle
  have hdist : |((signFactor neg * 2 ^ 52 : Int) : ℚ) * 2 ^ q - signFactor neg * r| = r - 2 ^ 52 * 2 ^ q := by
    rw [Int.cast_mul, Int.cast_pow, Int.cast_ofNat, mul_assoc, abs_signFactor_mul_sub, abs_sub_comm,
      abs_of_nonneg (sub_nonneg.mpr hle)]
  have habs : |signFactor neg * r| = r := by rw [abs_mul, abs_signFactor, one_mul, abs_of_nonneg hr]
  have htri := abs_sub_abs_le_abs_sub (signFactor neg * r) (floatValue .binary64 y)
  rw [habs, abs_sub_comm] at htri
  calc |floatValue .binary64 x - signFactor neg * r|
    _ ≤ r - 2 ^ 52 * 2 ^ q := hdist ▸ h.abs_sub_le _
    _ < r - |floatValue .binary64 y| := by linarith
    _ ≤ |floatValue .binary64 y - signFactor neg * r| := htri

/-- R12 `round_FMT`: no Float is nearer, and on a tie the significand taken is even. -/
theorem RoundedAt.nearestFloat (h : RoundedAt neg r q sig x) :
    NearestFloat .binary64 ((signFactor neg * r : ℚ) : ℝ) x := by
  refine (nearestFloat_ratCast ..).mpr ⟨h.finite, fun y _ => ?_⟩
  obtain hfiner | hcoarser := lt_or_ge (floatScale .binary64 y) q
  · have hlt := h.abs_sub_lt hfiner
    exact ⟨hlt.le, fun _ htie => absurd htie hlt.ne'⟩
  · obtain ⟨n, hn⟩ := exists_floatValue_eq_mul hcoarser
    rw [hn]
    refine ⟨h.abs_sub_le n, fun hne htie => h.lowBit ?_⟩
    have hpos : (2 : ℚ) ^ q ≠ 0 := by positivity
    rw [h.value_eq, abs_mul_zpow_sub, abs_mul_zpow_sub] at htie
    rw [h.value_eq] at hne
    have heven := h.nearestEven.even_of_tie (fun heq => hne (by rw [heq])) (mul_right_cancel₀ hpos htie)
    cases neg <;> simpa [signFactor] using heven

/-- A number of at most 53 binary digits that is a multiple of the least unit is a Float: nothing is rounded away. -/
theorem RoundedAt.value_eq_of_lt {m : Nat} {e : Int} (h : RoundedAt neg ((m : ℚ) * 2 ^ e) q sig x) (hm : m < 2 ^ 53)
    (he : -1074 ≤ e) : floatValue .binary64 x = signFactor neg * (m * 2 ^ e) := by
  have hq : q ≤ e := by
    obtain rfl | hle := h.unit
    · exact he
    · have hlt : (2 : ℚ) ^ (52 + q) < 2 ^ (53 + e) := by
        have hm' : (m : ℚ) < 2 ^ 53 := by exact_mod_cast hm
        calc (2 : ℚ) ^ (52 + q)
          _ = 2 ^ 52 * 2 ^ q := two_zpow_natCast_add 52 _
          _ ≤ m * 2 ^ e := hle
          _ < 2 ^ 53 * 2 ^ e := by gcongr
          _ = 2 ^ (53 + e) := (two_zpow_natCast_add 53 _).symm
      have := (zpow_lt_zpow_iff_right₀ one_lt_two).mp hlt
      omega
  obtain ⟨k, rfl⟩ := Int.le.dest hq
  have hunit : (m : ℚ) * 2 ^ (q + k) = ((m * 2 ^ k : Int) : ℚ) * 2 ^ q := by
    rw [zpow_add₀ two_ne_zero, zpow_natCast]
    push_cast
    ring
  have hsig : (sig : Int) = m * 2 ^ k := by
    refine h.nearest.unique ?_
    rw [hunit, mul_div_cancel_right₀ _ (by positivity)]
    exact .inl (by norm_num)
  rw [h.value, hunit, ← hsig, Int.cast_natCast]

end

end Sys2Proof.Machine
end

section
/-! PROOFS. The fixed-point codec (`spec/41_fixed_point.md`): `toFixed` and `toFloat` (R143, R144), their two round
trips (R147, R148), and the commands TO_FIXED and TO_FLOAT (R142, R145). -/

namespace Sys2Proof.Machine

/-! ### From a Float to an integer (R144) -/

section
variable (fmt : FloatFmt) (mode : FxRound) (x : F64) (frac : Nat)

/-- R144: every mode rounds the magnitude of the exact product and keeps its sign. -/
theorem scaledInt_rounds : ∃ (r : ℚ) (i : Nat), Rounds mode r i ∧
    floatValue fmt x * 2 ^ frac = signFactor (floatSign fmt x) * r ∧
    scaledInt fmt mode x frac = signFactor (floatSign fmt x) * (i : Int) := by
  refine ⟨_, _, rounds_rintMag mode (floatMant fmt x) (floatScale fmt x + frac), ?_, ?_⟩
  · rw [floatValue_eq, zpow_add₀ two_ne_zero, zpow_natCast, mul_assoc, mul_assoc]
  · rw [scaledInt, signFactor]
    split <;> simp

variable {fmt mode x frac}

theorem nearestEven_scaledInt :
    NearestEven (floatValue fmt x * 2 ^ frac) (scaledInt fmt .nearestEven x frac) := by
  obtain ⟨r, i, hround, hr, hi⟩ := scaledInt_rounds fmt .nearestEven x frac
  rw [hr, hi]
  exact hround.nearestEven.signFactor_mul _

theorem abs_sub_scaledInt_le_half (hmode : mode ≠ .trunc) :
    |floatValue fmt x * 2 ^ frac - scaledInt fmt mode x frac| ≤ 1 / 2 := by
  obtain ⟨r, i, hround, hr, hi⟩ := scaledInt_rounds fmt mode x frac
  rw [hr, hi, Int.cast_mul, Int.cast_natCast, abs_signFactor_mul_sub]
  exact hround.abs_sub_le_half hmode

theorem abs_sub_scaledInt_lt_one :
    |floatValue fmt x * 2 ^ frac - scaledInt fmt .trunc x frac| < 1 := by
  obtain ⟨r, i, hround, hr, hi⟩ := scaledInt_rounds fmt .trunc x frac
  rw [hr, hi, Int.cast_mul, Int.cast_natCast, abs_signFactor_mul_sub]
  exact hround.abs_sub_lt_one

/-- Every mode gives the exact product where it is an integer. -/
theorem scaledInt_eq_of_eq {n : Int} (h : floatValue fmt x * 2 ^ frac = n) : scaledInt fmt mode x frac = n := by
  obtain ⟨r, i, hround, hr, hi⟩ := scaledInt_rounds fmt mode x frac
  have hnonneg : 0 ≤ r := by
    obtain ⟨q, f, rfl, hf, -⟩ := hround
    positivity
  have habs : r = (n.natAbs : Nat) := by
    have := congrArg abs (hr.symm.trans h)
    rw [abs_mul, abs_signFactor, one_mul, abs_of_nonneg hnonneg] at this
    rw [this, Nat.cast_natAbs, Int.cast_abs]
  rw [habs] at hround
  have hcast : ((scaledInt fmt mode x frac : Int) : ℚ) = n := by
    rw [← h, hr, hi, habs, hround.eq_of_natCast, Int.cast_mul, Int.cast_natCast]
  exact_mod_cast hcast

end

theorem inSignedRange_iff (W : Nat) (i : Int) :
    inSignedRange W i = true ↔ -(2 : Int) ^ (W - 1) ≤ i ∧ i ≤ 2 ^ (W - 1) - 1 := by
  simp [inSignedRange]

/-- Settles O44: the rounded multiple is a nearest integer, and there is only one with the even tie. -/
theorem toFixedRoundsToNearestEven : Obligations.ToFixedRoundsToNearestEven := by
  intro x frac W i _ _
  have hround : scaledInt .binary64 .nearestEven x frac = i ↔ NearestEven (floatValue .binary64 x * 2 ^ frac) i :=
    ⟨fun h => h ▸ nearestEven_scaledInt, nearestEven_scaledInt.unique⟩
  rw [toFixed_eq_some_iff, hround, inSignedRange_iff]

/-! ### From an integer to a Float (R143) -/

section
variable {v : Int} (frac : Nat)

/-- A 64-bit integer at any number of fractional bits is far from overflow. -/
theorem roundedAt_toFloat (hv : v.natAbs ≤ 2 ^ 63) : ∃ q sig,
    RoundedAt (decide (v < 0)) ((v.natAbs : ℚ) * 2 ^ (-(frac : Int))) q sig (toFloat .binary64 v frac) := by
  refine exists_roundedAt_roundToFloat _ ?_
  have hmag : (v.natAbs : ℚ) ≤ 2 ^ 63 := by exact_mod_cast hv
  calc (v.natAbs : ℚ) * 2 ^ (-(frac : Int))
    _ ≤ v.natAbs * 1 := by gcongr; exact zpow_le_one_of_nonpos₀ one_le_two (by omega)
    _ ≤ 2 ^ 63 := by rwa [mul_one]
    _ < 2 ^ 1024 - 2 ^ 970 := by
      have hle : (2 : ℚ) ^ 63 ≤ 2 ^ 970 := pow_le_pow_right₀ one_le_two (by norm_num)
      have hpos : (0 : ℚ) < 2 ^ 970 := by positivity
      rw [two_pow_1024_eq]
      generalize (2 : ℚ) ^ 970 = u at hle hpos ⊢
      linarith

theorem signFactor_mul_natAbs_mul_zpow (v : Int) (frac : Nat) :
    signFactor (decide (v < 0)) * ((v.natAbs : ℚ) * 2 ^ (-(frac : Int))) = v / 2 ^ frac := by
  have hv : (signFactor (decide (v < 0)) : ℚ) * (v.natAbs : ℚ) = v := by
    rw [← Int.cast_natCast, ← Int.cast_mul, signFactor_mul_natAbs]
  rw [← mul_assoc, hv, zpow_neg, zpow_natCast, div_eq_mul_inv]

theorem nearestFloat_toFloat (hv : v.natAbs ≤ 2 ^ 63) :
    NearestFloat .binary64 (((v : ℚ) / 2 ^ frac : ℚ) : ℝ) (toFloat .binary64 v frac) := by
  obtain ⟨q, sig, h⟩ := roundedAt_toFloat frac hv
  rw [← signFactor_mul_natAbs_mul_zpow]
  exact h.nearestFloat

variable {frac}

theorem floatValue_toFloat (hfrac : frac ≤ 63) (hv : v.natAbs < 2 ^ 53) :
    floatValue .binary64 (toFloat .binary64 v frac) = v / 2 ^ frac := by
  obtain ⟨q, sig, h⟩ := roundedAt_toFloat (v := v) frac (by omega)
  rw [h.value_eq_of_lt hv (by omega), signFactor_mul_natAbs_mul_zpow]

end

theorem toFloat_zero (frac : Nat) : toFloat .binary64 0 frac = 0 := by
  have hmag : roundToFloatMag .binary64 0 (-(frac : Int)) = 0 := if_pos rfl
  show floatOf .binary64 false (roundToFloatMag .binary64 0 (-(frac : Int))) = 0
  rw [hmag]
  rfl

/-- Settles O45: the quotient is rounded at a unit of which it has 53 binary digits, where any Float is either a whole
number of units or below all that have 53 digits. -/
theorem toFloatIsNearestFloat : Obligations.ToFloatIsNearestFloat := by
  refine ⟨fun v frac hfrac hlow hhigh => ?_, toFloat_zero⟩
  obtain ⟨hfinite, hnearest⟩ := (nearestFloat_ratCast ..).mp (nearestFloat_toFloat (v := v) frac (by omega))
  exact ⟨hfinite, fun y hy => (hnearest y hy).1, fun y hy => (hnearest y hy).2, floatValue_toFloat hfrac⟩

/-! ### The round trips (R147, R148) -/

/-- Settles O46: the Float is exact, so that its multiple is the integer, which every mode keeps. -/
theorem fixedToFloatToFixedIsExact : Obligations.FixedToFloatToFixedIsExact := by
  intro mode W frac v _ hfrac hlow hhigh hv
  have hexact : floatValue .binary64 (toFloat .binary64 v frac) * 2 ^ frac = v := by
    rw [floatValue_toFloat hfrac hv, div_mul_cancel₀ _ (by positivity)]
  rw [toFixed_eq_some_iff, inSignedRange_iff]
  exact ⟨(nearestFloat_toFloat frac (by omega)).1, scaledInt_eq_of_eq hexact, hlow, hhigh⟩

/-- The way back is exact, so that the whole trip's error is the rounding's own, scaled. -/
theorem abs_floatValue_toFloat_sub {i : Int} {frac : Nat} (hfrac : frac ≤ 63) (hi : i.natAbs < 2 ^ 53) (x : F64) :
    |floatValue .binary64 (toFloat .binary64 i frac) - floatValue .binary64 x| =
      |floatValue .binary64 x * 2 ^ frac - i| / 2 ^ frac := by
  have hpos : (0 : ℚ) < 2 ^ frac := by positivity
  rw [floatValue_toFloat hfrac hi, abs_sub_comm, eq_div_iff hpos.ne']
  nth_rw 2 [← abs_of_pos hpos]
  rw [← abs_mul, sub_mul, div_mul_cancel₀ _ hpos.ne']

/-- Settles O47: the rounding of the multiple is within a half, or a unit under TRUNC, and exact for an integer. -/
theorem floatToFixedToFloatIsBounded : Obligations.FloatToFixedToFloatIsBounded := by
  intro mode W frac x i _ hfrac _ hfixed hi
  obtain ⟨-, rfl, -⟩ := (toFixed_eq_some_iff ..).mp hfixed
  rw [abs_floatValue_toFloat_sub hfrac hi]
  refine ⟨fun hmode => ?_, ?_, ?_⟩
  · rw [pow_succ', ← div_div]
    gcongr
    exact abs_sub_scaledInt_le_half hmode
  · rintro rfl
    gcongr
    exact abs_sub_scaledInt_lt_one
  · rintro ⟨n, hn⟩
    have hexact : floatValue .binary64 x * 2 ^ frac = n := by rw [hn, div_mul_cancel₀ _ (by positivity)]
    rw [floatValue_toFloat hfrac hi, scaledInt_eq_of_eq hexact, hn]

/-! ### The commands (R142, R145) -/

theorem exec_toFloat {W : Nat} {width : BitVec 2} (h : widthBits width = some W) (n : BitVec 64) (frac : BitVec 6)
    (s : State) : exec (.toFloat n frac width) s = .next (toFloatOp Config.phpc n frac W s) := by
  show toFloatCommand Config.phpc n frac width s = _
  rw [toFloatCommand, h]

theorem exec_toFixed {W : Nat} {width : BitVec 2} (h : widthBits width = some W) (x : F64) (frac : BitVec 6)
    (s : State) : exec (.toFixed x frac width) s = .next (toFixedOp Config.phpc x frac W s) := by
  show toFixedCommand Config.phpc x frac width s = _
  rw [toFixedCommand, h]

theorem toFixedOp_of_eq_some {x : F64} {frac : BitVec 6} {W : Nat} {i : Int}
    (h : toFixed .binary64 .nearestEven x frac.toNat W = some i) (s : State) :
    toFixedOp Config.phpc x frac W s = complete { s with fxintOut := (BitVec.ofInt W i).signExtend 64 } := by
  unfold toFixedOp
  rw [show toFixed Config.phpc.floatFmt Config.phpc.fxRound x frac.toNat W = some i from h]

theorem toFixedOp_of_eq_none {x : F64} {frac : BitVec 6} {W : Nat}
    (h : toFixed .binary64 .nearestEven x frac.toNat W = none) (s : State) :
    toFixedOp Config.phpc x frac W s = raiseError .toFixed (.arithmeticOverflow siteDirect 0) s := by
  unfold toFixedOp
  rw [show toFixed Config.phpc.floatFmt Config.phpc.fxRound x frac.toNat W = none from h]

/-- R145: sign extension of `bits_W(i)` gives `i` for every `i` of the range. -/
theorem signExtend_ofInt_of_inSignedRange {W : Nat} {i : Int} (hpos : 0 < W) (h : inSignedRange W i = true) :
    (BitVec.ofInt W i).signExtend 64 = BitVec.ofInt 64 i := by
  obtain ⟨hlow, hhigh⟩ := (inSignedRange_iff ..).mp h
  rw [BitVec.signExtend, BitVec.toInt_ofInt_eq_self hpos hlow (by omega)]

/-- Settles O42: the operand's low bits are its truncation to the width. -/
theorem toFloatConvertsLowBits : Obligations.ToFloatConvertsLowBits := by
  intro s n frac
  refine ⟨?_, ?_, ?_⟩
  · exact exec_toFloat (W := 16) rfl n frac s
  · exact exec_toFloat (W := 32) rfl n frac s
  · exact exec_toFloat (W := 64) rfl n frac s

/-- Settles O43: the integer is in the range of its width, so that its sign extension is itself. -/
theorem toFixedConvertsOrOverflows : Obligations.ToFixedConvertsOrOverflows := by
  intro s x frac width W hwidth
  have hpos : 0 < W := by omega
  rw [exec_toFixed ((widthBits_eq_some_iff width W).mpr hwidth)]
  constructor
  · intro i hi
    obtain ⟨-, -, hrange⟩ := (toFixed_eq_some_iff ..).mp hi
    rw [toFixedOp_of_eq_some hi, signExtend_ofInt_of_inSignedRange hpos hrange]
    rfl
  · intro hnone
    rw [toFixedOp_of_eq_none hnone]
    exact ⟨_, rfl, rfl⟩

end Sys2Proof.Machine
end

section
/-! PROOFS. PEEK and the header word (`spec/42_peek_prologue.md`): the header pair (R180, R181), the two outcomes of
PEEK (R175, R176), and what DECODE_AUTO makes of them (R182). -/

namespace Sys2Proof.Machine

/-! ### The header word (R83, R180, R181) -/

/-- R180: the positions of R83 put the four fields side by side. -/
theorem packHeaderWord_eq_append (type : BitVec 4) (flags : BitVec 8) (count : BitVec 4) (size : BitVec 16) :
    packHeaderWord Config.phpc type flags count size = type ++ flags ++ count ++ size := by
  have hplaces : (type ++ flags ++ count ++ size).setWidth 32 =
      type.setWidth 32 <<< 28 ||| flags.setWidth 32 <<< 20 ||| count.setWidth 32 <<< 16 ||| size.setWidth 32 :=
    BitVec.setWidth_append_append_append_eq_shiftLeft_setWidth_or
  calc packHeaderWord Config.phpc type flags count size
    _ = type.setWidth 32 <<< 28 ||| flags.setWidth 32 <<< 20 ||| count.setWidth 32 <<< 16 |||
        size.setWidth 32 <<< 0 := rfl
    _ = type ++ flags ++ count ++ size := by rw [BitVec.shiftLeft_zero, ← hplaces, BitVec.setWidth_eq]

/-- A header word is its four fields, side by side. -/
theorem header_fields_append (w : Word) :
    headerType Config.phpc w ++ headerFlags Config.phpc w ++ headerCount Config.phpc w ++ headerSize Config.phpc w =
      w := by
  have hflags : w.extractLsb' 28 4 ++ w.extractLsb' 20 8 = w.extractLsb' 20 12 :=
    BitVec.extractLsb'_append_extractLsb'_eq_extractLsb' rfl
  have hcount : w.extractLsb' 20 12 ++ w.extractLsb' 16 4 = w.extractLsb' 16 16 :=
    BitVec.extractLsb'_append_extractLsb'_eq_extractLsb' rfl
  have hsize : w.extractLsb' 16 16 ++ w.extractLsb' 0 16 = w.extractLsb' 0 32 :=
    BitVec.extractLsb'_append_extractLsb'_eq_extractLsb' rfl
  show w.extractLsb' 28 4 ++ w.extractLsb' 20 8 ++ w.extractLsb' 16 4 ++ w.extractLsb' 0 16 = w
  rw [hflags, hcount, hsize, BitVec.extractLsb'_eq_self]

section
variable (type : BitVec 4) (flags : BitVec 8) (count : BitVec 4) (size : BitVec 16)

theorem headerSize_append : headerSize Config.phpc (type ++ flags ++ count ++ size) = size :=
  BitVec.extractLsb'_append_eq_right

theorem headerCount_append : headerCount Config.phpc (type ++ flags ++ count ++ size) = count :=
  (BitVec.extractLsb'_append_eq_of_le (by decide)).trans BitVec.extractLsb'_append_eq_right

theorem headerFlags_append : headerFlags Config.phpc (type ++ flags ++ count ++ size) = flags :=
  (BitVec.extractLsb'_append_eq_of_le (by decide)).trans <|
    (BitVec.extractLsb'_append_eq_of_le (by decide)).trans BitVec.extractLsb'_append_eq_right

theorem headerType_append : headerType Config.phpc (type ++ flags ++ count ++ size) = type :=
  (BitVec.extractLsb'_append_eq_of_le (by decide)).trans <|
    (BitVec.extractLsb'_append_eq_of_le (by decide)).trans BitVec.extractLsb'_append_eq_left

end

/-- Settles O11: a header word is its four fields side by side, which gives both ways. -/
theorem headerPackUnpackBijection : Obligations.HeaderPackUnpackBijection := by
  constructor
  · intro w
    rw [packHeaderWord_eq_append, header_fields_append]
  · intro type flags count size
    rw [packHeaderWord_eq_append]
    exact ⟨headerType_append .., headerFlags_append .., headerCount_append .., headerSize_append ..⟩

/-- Settles O12: the command packs the record's own four members and completes. -/
theorem packHeaderJoinsFourMembers : Obligations.PackHeaderJoinsFourMembers := by
  intro s
  show Host.Outcome.next (packHeaderOp Config.phpc s) = _
  rw [packHeaderOp, packHeaderWord_eq_append, complete, statusOk_eq]

/-! ### PEEK (R175, R176) -/

theorem exec_peek (s : State) : exec .peek s = .next (peekOp Config.phpc s) := rfl

section
variable {w : Word}

theorem classify_of_data (h : headerType Config.phpc w = 1) : classify Config.phpc w = .data := if_pos h

theorem classify_of_context (h : headerType Config.phpc w = 4) : classify Config.phpc w = .context := by
  rw [classify, h]
  rfl

theorem classify_of_unknown (hdata : headerType Config.phpc w ≠ 1) (hcontext : headerType Config.phpc w ≠ 4) :
    classify Config.phpc w = .invalid := (if_neg hdata).trans (if_neg hcontext)

end

/-- PEEK leaves the supply as it was. -/
theorem peekOp_nIn (c : Config) (s : State) : (peekOp c s).nIn = s.nIn := by
  rw [peekOp_frame]
  rfl

theorem memRead_peekOp (c c' : Config) (s : State) (a : Nat) : memRead c' (peekOp c s) a = memRead c' s a := by
  rw [peekOp_frame]
  rfl

section
variable {s : State}

theorem peekOp_of_nIn_ne_zero (c : Config) (h : s.nIn ≠ 0) :
    peekOp c s = complete (peekWord c (memRead c s 0) s) := if_neg h

theorem peekOp_of_nIn_eq_zero (c : Config) (h : s.nIn = 0) :
    peekOp c s = raiseError .peek (.sizeImplausible 0 true) s := if_pos h

theorem peekOp_ptype (c : Config) (h : s.nIn ≠ 0) : (peekOp c s).ptype = classify c (memRead c s 0) := by
  simp [peekOp_of_nIn_ne_zero c h]

theorem peekOp_psize (c : Config) (h : s.nIn ≠ 0) : (peekOp c s).psize = headerSize c (memRead c s 0) := by
  simp [peekOp_of_nIn_ne_zero c h]

end

/-- Settles O9: with a word PEEK completes on it; without one it raises, and its frame names what is left open. -/
theorem peekClassifiesFirstWord : Obligations.PeekClassifiesFirstWord := by
  constructor
  · rintro s w hsome rfl
    rw [exec_peek, peekOp_of_nIn_ne_zero _ hsome, complete, statusOk_eq]
    rfl
  · intro s hnone
    refine ⟨_, exec_peek s, ?_⟩
    rw [peekOp_of_nIn_eq_zero _ hnone, raiseError, errorStatus_sizeImplausible]
    rfl

/-- Settles O10: what PEEK reports is a function of the word read. -/
theorem peekReadsOnlyFirstWord : Obligations.PeekReadsOnlyFirstWord := by
  intro s s' t t' hsome hsome' hword ht ht'
  have hread : memRead Config.phpc s 0 = memRead Config.phpc s' 0 := by rw [memRead, memRead, hword]
  rw [exec_peek, peekOp_of_nIn_ne_zero _ hsome] at ht
  rw [exec_peek, peekOp_of_nIn_ne_zero _ hsome'] at ht'
  cases ht
  cases ht'
  simp [hread]

/-! ### DECODE_AUTO (R182, R310) -/

/-- R310: on a packet of another type the entry checks fail, and the size decides how. -/
theorem entryChecks_of_wrong_type (S : BitVec 16) (nIn : BitVec 17) {found want : BitVec 4} (expected : BitVec 2)
    (hne : found ≠ want) :
    ∃ e, entryChecks S nIn found want expected = some e ∧
      errorStatus e = if S.toNat < 5 ∨ nIn.toNat < S.toNat then 0x1B else 0x11 := by
  unfold entryChecks
  by_cases hsmall : S.toNat < 5
  · exact ⟨_, if_pos hsmall, by simp [hsmall]⟩
  by_cases hlarge : nIn.toNat < S.toNat
  · exact ⟨_, (if_neg hsmall).trans (if_pos hlarge), by simp [hlarge]⟩
  · exact ⟨_, (if_neg hsmall).trans ((if_neg hlarge).trans (if_pos hne)), by simp [hsmall, hlarge]⟩

/-- R310 for DECODE_DATA, which takes no packet of another type. -/
theorem decodeDataOp_of_wrong_type {c : Config} {s : State} (S : BitVec 16) (ref : F64)
    (hne : headerType c (memRead c s 0) ≠ c.typeData) :
    ∃ e, decodeDataOp c S ref s = raiseError .decodeData e s ∧
      errorStatus e = if S.toNat < 5 ∨ s.nIn.toNat < S.toNat then 0x1B else 0x11 := by
  obtain ⟨e, hentry, hstatus⟩ := entryChecks_of_wrong_type S s.nIn (packetTypeBits .data) hne
  refine ⟨e, ?_, hstatus⟩
  rw [decodeDataOp, entryChecksOf, hentry]

/-- DECODE_AUTO on a packet supplied is the decode that PEEK's results select. -/
theorem decodeAuto_of_nIn_ne_zero (ref : F64) {s : State} (h : s.nIn ≠ 0) :
    decodeAuto ref s = exec (autoSelect ref (peekOp Config.phpc s)) (peekOp Config.phpc s) := by
  have hok : statusCode (peekOp Config.phpc s).status = 0 := by
    rw [peekOp_of_nIn_ne_zero _ h, complete_status, statusOk_eq]
    rfl
  exact if_pos hok

/-- DECODE_AUTO with no word supplied is PEEK. -/
theorem decodeAuto_of_nIn_eq_zero (ref : F64) {s : State} (h : s.nIn = 0) :
    decodeAuto ref s = .next (peekOp Config.phpc s) := by
  have herror : statusCode (peekOp Config.phpc s).status ≠ 0 := by
    rw [peekOp_of_nIn_eq_zero _ h, raiseError_status, errorStatus_sizeImplausible]
    decide
  exact if_neg herror

/-- R182, R310: a packet of unknown type goes to DECODE_DATA, whose entry checks refuse it. -/
theorem decodeAuto_of_unknown_type (ref : F64) {s : State} (h : s.nIn ≠ 0)
    (hdata : headerType Config.phpc (memRead Config.phpc s 0) ≠ 1)
    (hptype : (peekOp Config.phpc s).ptype = .invalid) :
    ∃ e, decodeAuto ref s = .next (raiseError .decodeData e (peekOp Config.phpc s)) ∧
      errorStatus e =
        if (peekOp Config.phpc s).psize.toNat < 5 ∨ s.nIn.toNat < (peekOp Config.phpc s).psize.toNat then 0x1B
        else 0x11 := by
  have hne : headerType Config.phpc (memRead Config.phpc (peekOp Config.phpc s) 0) ≠ Config.phpc.typeData := by
    rwa [memRead_peekOp]
  obtain ⟨e, hop, hstatus⟩ := decodeDataOp_of_wrong_type (peekOp Config.phpc s).psize ref hne
  refine ⟨e, ?_, by rwa [peekOp_nIn] at hstatus⟩
  rw [decodeAuto_of_nIn_ne_zero ref h, autoSelect, hptype, ← hop]
  rfl

/-- Settles O14: PEEK leaves the packet as it was, so that the decode's own entry checks judge the size and the type
that PEEK found. -/
theorem decodeAutoSeparatesFatalFromRecoverable : Obligations.DecodeAutoSeparatesFatalFromRecoverable := by
  refine ⟨?known, ?unknown, ?empty⟩
  case known =>
    rintro s ref w hsome rfl
    have hpsize := peekOp_psize Config.phpc hsome
    refine ⟨_, exec_peek s, hpsize, fun hcode => ?_, fun hcode => ?_⟩
    · have hptype := (peekOp_ptype Config.phpc hsome).trans (classify_of_context hcode)
      refine ⟨hptype, ?_⟩
      rw [decodeAuto_of_nIn_ne_zero ref hsome, autoSelect, hptype, hpsize]
      rfl
    · have hptype := (peekOp_ptype Config.phpc hsome).trans (classify_of_data hcode)
      refine ⟨hptype, ?_⟩
      rw [decodeAuto_of_nIn_ne_zero ref hsome, autoSelect, hptype, hpsize]
      rfl
  case unknown =>
    rintro s ref w hsome rfl hdata hcontext
    have hpsize := peekOp_psize Config.phpc hsome
    have hptype := (peekOp_ptype Config.phpc hsome).trans (classify_of_unknown hdata hcontext)
    obtain ⟨e, hauto, hstatus⟩ := decodeAuto_of_unknown_type ref hsome hdata hptype
    rw [hpsize] at hstatus
    refine ⟨_, hauto, hptype, hpsize, rfl, ?_⟩
    split
    next himplausible => exact hstatus.trans (if_pos himplausible)
    next hplausible => exact hstatus.trans (if_neg hplausible)
  case empty =>
    intro s ref hnone
    refine ⟨_, decodeAuto_of_nIn_eq_zero ref hnone, ?_⟩
    rw [peekOp_of_nIn_eq_zero _ hnone]
    exact ⟨errorStatus_sizeImplausible .., rfl, rfl⟩

end Sys2Proof.Machine
end

section
/-! PROOFS. Data packets (`spec/43_data_packet.md`): the trailer word (R210 to R216), DECODE_DATA (R201, R202),
ENCODE_DATA (R220) and their round trip (R221). -/

namespace Sys2Proof.Machine

/-! ### The trailer word (R90, R210, R211, R215, R216) -/

/-- R210: the pairs have every name once, and their bits are distinct bits of the word above the count's. -/
structure PairsApart (ps : List TrailerPair) : Prop where
  names : (ps.map (·.name)).Nodup
  all : ∀ n, ∃ p ∈ ps, p.name = n
  enable_inj : ∀ p ∈ ps, ∀ q ∈ ps, p.enable = q.enable → p = q
  indicator_inj : ∀ p ∈ ps, ∀ q ∈ ps, p.indicator = q.indicator → p = q
  enable_ne : ∀ p ∈ ps, ∀ q ∈ ps, p.enable ≠ q.indicator
  enable_range : ∀ p ∈ ps, 8 ≤ p.enable ∧ p.enable < 32
  indicator_range : ∀ p ∈ ps, 8 ≤ p.indicator ∧ p.indicator < 32

/-- Five distinct names are all the names. -/
theorem mem_of_nodup_of_length {ns : List TrailerName} (hnodup : ns.Nodup) (hlen : ns.length = 5) (n : TrailerName) :
    n ∈ ns := by
  have hmem : ∀ m, m ∈ [TrailerName.calibratedTime, .validData, .referenceLock, .overRange, .sampleLoss] := by
    intro m
    cases m <;> decide
  have hsub := List.subperm_of_subset hnodup fun m _ => hmem m
  exact (hsub.perm_of_length_le hlen.ge).mem_iff.mpr (hmem n)

theorem pairsApart_of_ok {ps : List TrailerPair} (h : trailerPairsOk ps = true) : PairsApart ps := by
  simp only [trailerPairsOk, Bool.and_eq_true, beq_iff_eq, decide_eq_true_eq, List.all_eq_true] at h
  obtain ⟨⟨⟨hlen, hnames⟩, hbits⟩, hrange⟩ := h
  obtain ⟨henable, hindicator, hdisjoint⟩ := List.nodup_append.mp hbits
  have hrange : ∀ b ∈ ps.map (·.enable) ++ ps.map (·.indicator), 8 ≤ b ∧ b < 32 := hrange
  exact
    { names := hnames
      all := fun n => List.mem_map.mp (mem_of_nodup_of_length hnames (by simpa using hlen) n)
      enable_inj := fun p hp q hq => List.inj_on_of_nodup_map henable hp hq
      indicator_inj := fun p hp q hq => List.inj_on_of_nodup_map hindicator hp hq
      enable_ne := fun p hp q hq => hdisjoint _ (List.mem_map_of_mem hp) _ (List.mem_map_of_mem hq)
      enable_range := fun p hp => hrange _ (List.mem_append_left _ (List.mem_map_of_mem hp))
      indicator_range := fun p hp => hrange _ (List.mem_append_right _ (List.mem_map_of_mem hp)) }

/-- R8, R210: the trailer's table and the place of its count are as the spec allows. -/
structure TrailerApart (c : Config) : Prop where
  pairs : PairsApart c.trailerPairs
  countLsb : c.trailerCountLsb ≤ 1

theorem trailerApart_phpc : TrailerApart Config.phpc := ⟨pairsApart_of_ok (by decide), by decide⟩

/-- R211: a name that no row of the rest of the table has keeps what it holds. -/
theorem decodePairs_pair_of_notMem (t : Word) {ps : List TrailerPair} {n : TrailerName}
    (h : n ∉ ps.map (·.name)) (r : Trailer) : (decodePairs t ps r).pair n = r.pair n := by
  induction ps generalizing r with
  | nil => rfl
  | cons p ps ih =>
    simp only [List.map_cons, List.mem_cons, not_or] at h
    rw [decodePairs, ih h.2, Trailer.pair_setPair_of_ne _ _ h.1]

/-- R211: each pair takes its value from its own row's bits. -/
theorem decodePairs_pair_of_mem (t : Word) {ps : List TrailerPair} (hnames : (ps.map (·.name)).Nodup)
    {p : TrailerPair} (hp : p ∈ ps) (r : Trailer) : (decodePairs t ps r).pair p.name = trailerPairOf t p := by
  induction ps generalizing r with
  | nil => cases hp
  | cons q ps ih =>
    obtain ⟨hq, hnames⟩ := List.nodup_cons.mp hnames
    obtain rfl | hp := List.mem_cons.mp hp
    · rw [decodePairs, decodePairs_pair_of_notMem t hq, Trailer.pair_setPair_self]
    · exact ih hnames hp _

@[simp] theorem decodeTrailer_ctxCount (c : Config) (t : Word) :
    (decodeTrailer c t).ctxCount = trailerCountOf c t := rfl

theorem decodeTrailer_pair {c : Config} (h : TrailerApart c) (t : Word) {p : TrailerPair}
    (hp : p ∈ c.trailerPairs) : (decodeTrailer c t).pair p.name = trailerPairOf t p := by
  rw [← decodePairs_pair_of_mem t h.pairs.names hp Trailer.empty]
  cases p.name <;> rfl

theorem getLsbD_pairBits_eq_true_iff {p : TrailerPair} {b : Nat} (hb : b < 32) (v : Option Bool) :
    (pairBits p v).getLsbD b = true ↔ (v.isSome ∧ p.enable = b) ∨ (v = some true ∧ p.indicator = b) := by
  match v with
  | none => simp [pairBits]
  | some false => simp [pairBits, hb, @eq_comm _ b]
  | some true => simp [pairBits, hb, @eq_comm _ b]

theorem getLsbD_packPairs_eq_true_iff (r : Trailer) (ps : List TrailerPair) {b : Nat} (hb : b < 32) :
    (packPairs r ps).getLsbD b = true ↔
      ∃ p ∈ ps, ((r.pair p.name).isSome ∧ p.enable = b) ∨ (r.pair p.name = some true ∧ p.indicator = b) := by
  induction ps with
  | nil => simp [packPairs]
  | cons p ps ih => simp [packPairs, ih, getLsbD_pairBits_eq_true_iff hb]

section
variable {ps : List TrailerPair} (h : PairsApart ps) (r : Trailer)
include h

theorem getLsbD_packPairs_enable {p : TrailerPair} (hp : p ∈ ps) :
    (packPairs r ps).getLsbD p.enable = (r.pair p.name).isSome := by
  rw [Bool.eq_iff_iff, getLsbD_packPairs_eq_true_iff r ps (h.enable_range p hp).2]
  constructor
  · rintro ⟨q, hq, ⟨hsome, heq⟩ | ⟨-, heq⟩⟩
    · rwa [h.enable_inj q hq p hp heq] at hsome
    · exact absurd heq.symm (h.enable_ne p hp q hq)
  · exact fun hsome => ⟨p, hp, .inl ⟨hsome, rfl⟩⟩

theorem getLsbD_packPairs_indicator {p : TrailerPair} (hp : p ∈ ps) :
    (packPairs r ps).getLsbD p.indicator = (r.pair p.name == some true) := by
  rw [Bool.eq_iff_iff, getLsbD_packPairs_eq_true_iff r ps (h.indicator_range p hp).2, beq_iff_eq]
  constructor
  · rintro ⟨q, hq, ⟨-, heq⟩ | ⟨htrue, heq⟩⟩
    · exact absurd heq (h.enable_ne q hq p hp)
    · rwa [h.indicator_inj q hq p hp heq] at htrue
  · exact fun htrue => ⟨p, hp, .inr ⟨htrue, rfl⟩⟩

theorem getLsbD_packPairs_of_lt {b : Nat} (hb : b < 8) : (packPairs r ps).getLsbD b = false := by
  rw [Bool.eq_false_iff, ne_eq, getLsbD_packPairs_eq_true_iff r ps (by omega)]
  rintro ⟨p, hp, ⟨-, heq⟩ | ⟨-, heq⟩⟩
  · have := h.enable_range p hp
    omega
  · have := h.indicator_range p hp
    omega

end

section
variable {c : Config} (v : Option (BitVec 6))

theorem getLsbD_countBits_of_ge (hlsb : c.trailerCountLsb ≤ 1) {b : Nat} (hb : 8 ≤ b) :
    (countBits c v).getLsbD b = false := by
  cases v with
  | none => simp [countBits]
  | some n =>
    have hcount : n.getLsbD (b - c.trailerCountLsb) = false := BitVec.getLsbD_of_ge _ _ (by omega)
    have hne : 7 ≠ b := by omega
    simp [countBits, Config.trailerCountEnBit, hcount, hne]

theorem getLsbD_countBits_enable (_ : c.trailerCountLsb ≤ 1) : (countBits c v).getLsbD 7 = v.isSome := by
  cases v with
  | none => simp [countBits]
  | some n => simp [countBits, Config.trailerCountEnBit]

theorem getLsbD_countBits_of_lt {b : Nat} (hb : b < 7) : (countBits c v).getLsbD b =
    (decide (c.trailerCountLsb ≤ b) && (v.getD 0).getLsbD (b - c.trailerCountLsb)) := by
  cases v with
  | none => simp [countBits]
  | some n =>
    have hlt : b < 32 := by omega
    have hne : b ≠ 7 := by omega
    have hfrom : decide (c.trailerCountLsb ≤ b) = !decide (b < c.trailerCountLsb) := by
      rw [← decide_not]
      simp only [not_lt]
    rw [hfrom]
    simp [countBits, Config.trailerCountEnBit, hlt, hne]

end

theorem getLsbD_packTrailerWord (c : Config) (r : Trailer) (b : Nat) : (packTrailerWord c r).getLsbD b =
    ((packPairs r c.trailerPairs).getLsbD b || (countBits c r.ctxCount).getLsbD b) := BitVec.getLsbD_or

section
variable {c : Config} (h : TrailerApart c) (r : Trailer)
include h

theorem getLsbD_packTrailerWord_of_ge {b : Nat} (hb : 8 ≤ b) :
    (packTrailerWord c r).getLsbD b = (packPairs r c.trailerPairs).getLsbD b := by
  rw [getLsbD_packTrailerWord, getLsbD_countBits_of_ge _ h.countLsb hb, Bool.or_false]

theorem getLsbD_packTrailerWord_of_lt {b : Nat} (hb : b < 8) :
    (packTrailerWord c r).getLsbD b = (countBits c r.ctxCount).getLsbD b := by
  rw [getLsbD_packTrailerWord, getLsbD_packPairs_of_lt h.pairs r hb, Bool.false_or]

theorem getLsbD_packTrailerWord_enable {p : TrailerPair} (hp : p ∈ c.trailerPairs) :
    (packTrailerWord c r).getLsbD p.enable = (r.pair p.name).isSome := by
  rw [getLsbD_packTrailerWord_of_ge h r (h.pairs.enable_range p hp).1, getLsbD_packPairs_enable h.pairs r hp]

theorem getLsbD_packTrailerWord_indicator {p : TrailerPair} (hp : p ∈ c.trailerPairs) :
    (packTrailerWord c r).getLsbD p.indicator = (r.pair p.name == some true) := by
  rw [getLsbD_packTrailerWord_of_ge h r (h.pairs.indicator_range p hp).1, getLsbD_packPairs_indicator h.pairs r hp]

theorem getLsbD_packTrailerWord_countEnable : (packTrailerWord c r).getLsbD 7 = r.ctxCount.isSome := by
  rw [getLsbD_packTrailerWord_of_lt h r (by decide), getLsbD_countBits_enable _ h.countLsb]

theorem extractLsb'_packTrailerWord_count :
    (packTrailerWord c r).extractLsb' c.trailerCountLsb 6 = r.ctxCount.getD 0 := by
  have hlsb := h.countLsb
  apply BitVec.eq_of_getLsbD_eq
  intro b hb
  rw [BitVec.getLsbD_extractLsb', getLsbD_packTrailerWord_of_lt h r (by omega), getLsbD_countBits_of_lt _ (by omega)]
  simp [hb]

theorem trailerPairOf_packTrailerWord {p : TrailerPair} (hp : p ∈ c.trailerPairs) :
    trailerPairOf (packTrailerWord c r) p = r.pair p.name := by
  rw [trailerPairOf, getLsbD_packTrailerWord_enable h r hp, getLsbD_packTrailerWord_indicator h r hp]
  match r.pair p.name with
  | none => rfl
  | some false => rfl
  | some true => rfl

theorem trailerCountOf_packTrailerWord : trailerCountOf c (packTrailerWord c r) = r.ctxCount := by
  rw [trailerCountOf, Config.trailerCountEnBit, getLsbD_packTrailerWord_countEnable h r,
    extractLsb'_packTrailerWord_count h r]
  cases r.ctxCount <;> rfl

/-- R216, for any table that R210 allows. -/
theorem decodeTrailer_packTrailerWord : decodeTrailer c (packTrailerWord c r) = r := by
  refine Trailer.eq_of_pair_eq (fun n => ?_) (trailerCountOf_packTrailerWord h r)
  obtain ⟨p, hp, rfl⟩ := h.pairs.all n
  rw [decodeTrailer_pair h _ hp, trailerPairOf_packTrailerWord h r hp]

end

/-- Settles O21: each name of R210 has one row, whose bits are its own. -/
theorem trailerMembersAreGated : Obligations.TrailerMembersAreGated := by
  intro t
  have hpair := fun p hp => decodeTrailer_pair trailerApart_phpc t (p := p) hp
  exact ⟨hpair ⟨.calibratedTime, 31, 19⟩ (by decide), hpair ⟨.validData, 30, 18⟩ (by decide),
    hpair ⟨.referenceLock, 29, 17⟩ (by decide), hpair ⟨.overRange, 25, 13⟩ (by decide),
    hpair ⟨.sampleLoss, 24, 12⟩ (by decide), rfl⟩

/-- R90: the bits of the trailer word that no member has. -/
theorem getLsbD_packTrailerWord_unused (r : Trailer) {b : Nat}
    (hb : b ∈ [28, 27, 26, 23, 22, 21, 20, 16, 15, 14, 11, 10, 9, 8, 6]) :
    (packTrailerWord Config.phpc r).getLsbD b = false := by
  obtain rfl | hge : b = 6 ∨ 8 ≤ b := by revert b; decide
  · rw [getLsbD_packTrailerWord_of_lt trailerApart_phpc r (by decide), getLsbD_countBits_of_lt _ (by decide)]
    exact BitVec.getLsbD_of_ge _ _ (by decide)
  · have hlt : b < 32 := by revert b; decide
    have hnone : ∀ p ∈ Config.phpc.trailerPairs, p.enable ≠ b ∧ p.indicator ≠ b := by revert b; decide
    rw [getLsbD_packTrailerWord_of_ge trailerApart_phpc r hge, Bool.eq_false_iff, ne_eq,
      getLsbD_packPairs_eq_true_iff r _ hlt]
    rintro ⟨p, hp, ⟨-, heq⟩ | ⟨-, heq⟩⟩
    · exact (hnone p hp).1 heq
    · exact (hnone p hp).2 heq

/-- Settles O23: each bit of the packed word is a member's or no member's. -/
theorem packTrailerSetsMemberBits : Obligations.PackTrailerSetsMemberBits := by
  intro s
  refine ⟨packTrailerWord Config.phpc s.record.trl, ?_, fun p e i hp => ?_, ?_, ?_, fun b hb => ?_⟩
  · show Host.Outcome.next (packTrailerOp Config.phpc s) = _
    rw [packTrailerOp, complete, statusOk_eq]
  · exact ⟨getLsbD_packTrailerWord_enable trailerApart_phpc _ hp,
      getLsbD_packTrailerWord_indicator trailerApart_phpc _ hp⟩
  · exact getLsbD_packTrailerWord_countEnable trailerApart_phpc _
  · exact extractLsb'_packTrailerWord_count trailerApart_phpc _
  · exact getLsbD_packTrailerWord_unused _ hb

/-- R210: every bit of the trailer word is an enable bit, an indicator bit, the count's enable bit, a bit of the count,
or none of these. -/
theorem trailer_bit_cases {b : Nat} (hb : b < 32) :
    (∃ p ∈ Config.phpc.trailerPairs, p.enable = b) ∨ (∃ p ∈ Config.phpc.trailerPairs, p.indicator = b) ∨ b = 7 ∨
      b ≤ 5 ∨ b ∈ [28, 27, 26, 23, 22, 21, 20, 16, 15, 14, 11, 10, 9, 8, 6] := by
  revert b
  decide

theorem default_pair_bits {p : TrailerPair} (hp : p ∈ Config.phpc.trailerPairs) :
    p.enable ∈ [31, 30, 29, 25, 24, 7] ∧ p.indicator ∉ [31, 30, 29, 25, 24, 7] ∧
      p.indicator ∈ [19, 18, 17, 13, 12] ∧ p.indicator + 12 = p.enable ∧ ¬p.indicator ≤ 5 := by
  revert p
  decide

/-- R216: packing what a word decodes to keeps the bits that the decode does not ignore. -/
theorem getLsbD_packTrailerWord_decodeTrailer (t : Word) {b : Nat} (hb : b < 32) :
    (packTrailerWord Config.phpc (decodeTrailer Config.phpc t)).getLsbD b =
      (t.getLsbD b && (b ∈ [31, 30, 29, 25, 24, 7] ||
        (b ∈ [19, 18, 17, 13, 12] && t.getLsbD (b + 12)) || (b ≤ 5 && t.getLsbD 7))) := by
  obtain ⟨p, hp, rfl⟩ | ⟨p, hp, rfl⟩ | rfl | hcount | hunused := trailer_bit_cases hb
  · obtain ⟨hkept, -⟩ := default_pair_bits hp
    rw [getLsbD_packTrailerWord_enable trailerApart_phpc _ hp, decodeTrailer_pair trailerApart_phpc t hp,
      trailerPairOf]
    cases t.getLsbD p.enable <;> simp [hkept]
  · obtain ⟨-, hgated, hkept, henable, hhigh⟩ := default_pair_bits hp
    rw [getLsbD_packTrailerWord_indicator trailerApart_phpc _ hp,
      decodeTrailer_pair trailerApart_phpc t hp, trailerPairOf, henable]
    cases t.getLsbD p.enable <;> simp [hgated, hkept, hhigh]
  · rw [getLsbD_packTrailerWord_countEnable trailerApart_phpc, decodeTrailer_ctxCount, trailerCountOf,
      Config.trailerCountEnBit]
    cases t.getLsbD 7 <;> rfl
  · have hgated : b ∉ [31, 30, 29, 25, 24, 7] ∧ b ∉ [19, 18, 17, 13, 12] := by revert b; decide
    rw [getLsbD_packTrailerWord_of_lt trailerApart_phpc _ (by omega), getLsbD_countBits_of_lt _ (by omega),
      decodeTrailer_ctxCount, trailerCountOf, Config.trailerCountEnBit, show Config.phpc.trailerCountLsb = 0 from rfl]
    have hlt : b < 6 := by omega
    cases t.getLsbD 7 <;> simp [hgated, hcount, hlt]
  · have hignored : b ∉ [31, 30, 29, 25, 24, 7] ∧ b ∉ [19, 18, 17, 13, 12] ∧ ¬b ≤ 5 := by revert b; decide
    rw [getLsbD_packTrailerWord_unused _ hunused]
    simp [hignored]

/-- Settles O22: the bits of a table that R210 allows are apart, so that each member reads back its own; in the table
taken, each bit is a member's, whose gate decides whether it is kept, or no member's. -/
theorem trailerPackDecodePair : Obligations.TrailerPackDecodePair :=
  ⟨fun _ r hpairs hlsb => decodeTrailer_packTrailerWord ⟨pairsApart_of_ok hpairs, hlsb⟩ r,
    fun t _ hb => getLsbD_packTrailerWord_decodeTrailer t hb⟩

/-! ### DECODE_DATA (R201, R202, R205) -/

/-- A run of writes from the first entry on puts its values at their own places. -/
theorem Memory.read_writeFrom_zero {w : Nat} (free : Nat → Nat → BitVec w) (m : Memory w) {vs : List (BitVec w)}
    {j : Nat} {v : BitVec w} (h : vs[j]? = some v) : (m.writeFrom 0 vs).read free j = v := by
  obtain ⟨hj, rfl⟩ := List.getElem?_eq_some_iff.mp h
  simpa using Memory.read_writeFrom_at free m (a := 0) vs hj

theorem exec_decodeData (S : BitVec 16) (ref : F64) (s : State) :
    exec (.decodeData S ref) s = .next (decodeDataOp Config.phpc S ref s) := rfl

section
variable {c : Config} {S : BitVec 16} {ref : F64} {s : State}

theorem decodeDataOp_of_passes (hfixed : 6 ≤ S.toNat) (hsupplied : S.toNat ≤ s.nIn.toNat)
    (htype : headerType c (memRead c s 0) = c.typeData) : decodeDataOp c S ref s = decodeDataBody c S ref s := by
  rw [decodeDataOp, entryChecksOf, (entryChecks_eq_none_iff ..).mpr ⟨hfixed, hsupplied, htype⟩]

/-- DECODE_DATA writes CUR, NSAMP, the sample stores, the outcome, and of REC the kind, the prologue and the trailer. -/
theorem decodeDataBody_frame (c : Config) (S : BitVec 16) (ref : F64) (s : State) :
    decodeDataBody c S ref s =
      { s with record := { s.record with kind := .data, pro := readPrologue c s,
                                         trl := decodeTrailer c (memRead c s (S.toNat - 1)) }
               rawiq := (decodeDataBody c S ref s).rawiq
               scaled := (decodeDataBody c S ref s).scaled
               nsamp := BitVec.ofNat 18 (2 * (S.toNat - 6))
               cur := S.setWidth 17
               status := 0x10
               errinfo := 0 } := by
  rw [← statusOk_eq]
  rfl

variable (c S s) in
/-- R201: the samples of the payload, between the prologue and the trailer. -/
def payloadSamples : List Sample := splitPayload c (memReadList c s 5 (S.toNat - 6))

@[simp] theorem length_payloadSamples : (payloadSamples c S s).length = 2 * (S.toNat - 6) := by
  simp [payloadSamples]

theorem getElem?_payloadSamples {k : Nat} (hk : k < S.toNat - 6) :
    (payloadSamples c S s)[2 * k]? = some (splitIQ c (memRead c s (5 + k))).1 ∧
      (payloadSamples c S s)[2 * k + 1]? = some (splitIQ c (memRead c s (5 + k))).2 := by
  have hlen : k < (memReadList c s 5 (S.toNat - 6)).length := by simpa using hk
  refine getElem?_splitPayload c _ k _ ?_
  rw [List.getElem?_eq_getElem hlen, getElem_memReadList]

theorem decodeDataBody_rawiqAt {j : Nat} {v : Sample} (h : (payloadSamples c S s)[j]? = some v) :
    (decodeDataBody c S ref s).rawiqAt j = v := Memory.read_writeFrom_zero _ _ h

theorem decodeDataBody_scaledAt {j : Nat} {v : Sample} (h : (payloadSamples c S s)[j]? = some v) :
    (decodeDataBody c S ref s).scaledAt j = scaleSample c.floatFmt v (c.refScale ref) := by
  refine Memory.read_writeFrom_zero _ s.scaled (?_ : ((payloadSamples c S s).map _)[j]? = _)
  rw [List.getElem?_map, h, Option.map_some]

theorem decodeDataBody_rawiqAt_of_ge {j : Nat} (hj : 2 * (S.toNat - 6) ≤ j) :
    (decodeDataBody c S ref s).rawiqAt j = s.rawiqAt j :=
  Memory.read_writeFrom_of_ge _ _ (payloadSamples c S s) (by simpa using hj)

theorem decodeDataBody_scaledAt_of_ge {j : Nat} (hj : 2 * (S.toNat - 6) ≤ j) :
    (decodeDataBody c S ref s).scaledAt j = s.scaledAt j :=
  Memory.read_writeFrom_of_ge _ _ ((payloadSamples c S s).map _) (by simpa using hj)

end

/-- Settles O19: the entry checks pass, and the two runs of writes cover the entries that NSAMP counts. -/
theorem decodeDataExtractsPacket : Obligations.DecodeDataExtractsPacket := by
  rintro s S ref w0 rfl hfixed hsupplied htype
  refine ⟨_, exec_decodeData S ref s, ?_⟩
  rw [decodeDataOp_of_passes hfixed hsupplied htype]
  have hS := S.isLt
  refine ⟨fun k hk => ?_, fun j hj => ?_, fun j hj => ?_, ?_, ?_, rfl, rfl, decodeDataBody_frame ..⟩
  · obtain ⟨hi, hq⟩ := getElem?_payloadSamples (c := Config.phpc) (s := s) hk
    exact ⟨decodeDataBody_rawiqAt hi, decodeDataBody_rawiqAt hq⟩
  · have hlen : j < (payloadSamples Config.phpc S s).length := by simpa using hj
    have hsample := List.getElem?_eq_getElem hlen
    rw [decodeDataBody_rawiqAt hsample, decodeDataBody_scaledAt hsample]
    rfl
  · exact ⟨decodeDataBody_rawiqAt_of_ge hj, decodeDataBody_scaledAt_of_ge hj⟩
  · rw [decodeDataBody_frame, BitVec.toNat_ofNat]
    omega
  · rw [decodeDataBody_frame, BitVec.toNat_setWidth]
    omega

/-! ### ENCODE_DATA (R220) -/

theorem exec_encodeData (s : State) : exec .encodeData s = encodeDataCommand Config.phpc s := rfl

section
variable (c : Config) (s : State)

theorem encodeDataCommand_of_even {s : State} (h : s.nsamp.toNat % 2 = 0) :
    encodeDataCommand c s = .next (encodeDataOp c s) := if_pos h

theorem encodeDataCommand_of_odd {s : State} (h : s.nsamp.toNat % 2 = 1) :
    encodeDataCommand c s = .refused .oddSampleCount := if_neg (by omega)

theorem encodeDataOp_of_fits {s : State} (h : 6 + s.nsamp.toNat / 2 ≤ 65535) :
    encodeDataOp c s =
      complete { memWrite c s 0 (dataPacketWords c s) with nOut := BitVec.ofNat 17 (6 + s.nsamp.toNat / 2) } :=
  if_neg (not_lt.mpr h)

theorem encodeDataOp_of_too_large {s : State} (h : 65535 < 6 + s.nsamp.toNat / 2) :
    encodeDataOp c s = raiseError .encodeData (.arithmeticOverflow siteSize 0) s := if_pos h

theorem getElem?_dataPacketWords_payload {k : Nat} (hk : k < s.nsamp.toNat / 2) :
    (dataPacketWords c s)[5 + k]? = some (joinIQ c (s.rawiqAt (2 * k)) (s.rawiqAt (2 * k + 1))) := by
  have hlen : k < (payloadWords c s 0 (s.nsamp.toNat / 2)).length := by simpa using hk
  rw [dataPacketWords, List.append_assoc, List.getElem?_append_right (by simp), List.getElem?_append_left (by simpa)]
  simpa [hk] using getElem_payloadWords c s _ k hlen

theorem getElem?_dataPacketWords_trailer :
    (dataPacketWords c s)[5 + s.nsamp.toNat / 2]? = some (packTrailerWord c s.record.trl) := by
  rw [dataPacketWords, List.getElem?_append_right (by simp)]
  simp

variable {s} (hfits : 6 + s.nsamp.toNat / 2 ≤ 65535)
include hfits

theorem encodeDataOp_obufAt {k : Nat} {w : Word} (h : (dataPacketWords c s)[k]? = some w) :
    (encodeDataOp c s).obufAt k = normWord c w := by
  rw [encodeDataOp_of_fits c hfits]
  refine Memory.read_writeFrom_zero _ s.obuf (?_ : ((dataPacketWords c s).map (normWord c))[k]? = _)
  rw [List.getElem?_map, h, Option.map_some]

theorem encodeDataOp_obufAt_of_ge {a : Nat} (ha : 6 + s.nsamp.toNat / 2 ≤ a) :
    (encodeDataOp c s).obufAt a = s.obufAt a := by
  rw [encodeDataOp_of_fits c hfits]
  exact Memory.read_writeFrom_of_ge _ _ ((dataPacketWords c s).map _) (by simpa using ha)

theorem encodeDataOp_nOut : (encodeDataOp c s).nOut.toNat = 6 + s.nsamp.toNat / 2 := by
  rw [encodeDataOp_of_fits c hfits]
  exact Nat.mod_eq_of_lt (by omega)

end

/-- Settles O24: the words of the packet stand in OBUF one after another, each in raw form. -/
theorem encodeDataBuildsPacket : Obligations.EncodeDataBuildsPacket := by
  refine ⟨fun s heven hfits => ?_, fun s heven hlarge => ?_, fun s hodd => encodeDataCommand_of_odd Config.phpc hodd⟩
  · have hword := fun k w => encodeDataOp_obufAt Config.phpc hfits (k := k) (w := w)
    refine ⟨_, encodeDataCommand_of_even _ heven, hword 0 _ ?_, hword 1 _ rfl, hword 2 _ rfl, hword 3 _ rfl,
      hword 4 _ rfl, fun k hk => hword (5 + k) _ (getElem?_dataPacketWords_payload _ _ hk),
      hword _ _ (getElem?_dataPacketWords_trailer ..), fun a => encodeDataOp_obufAt_of_ge _ hfits,
      encodeDataOp_nOut _ hfits, ?_⟩
    · rw [← packHeaderWord_eq_append]
      rfl
    · rw [encodeDataOp_of_fits _ hfits, ← statusOk_eq]
      rfl
  · refine ⟨_, encodeDataCommand_of_even _ heven, ?_⟩
    rw [encodeDataOp_of_too_large _ hlarge, FailedEncode, ← errorStatus_arithmeticOverflow siteSize 0]
    rfl

/-! ### The round trip (R221) -/

/-- R95: a quantity of 64 bits is its two words, the high one first. -/
theorem highWord_append_lowWord (q : BitVec 64) : highWord q ++ lowWord q = q :=
  (BitVec.extractLsb'_append_extractLsb'_eq_extractLsb' rfl).trans BitVec.extractLsb'_eq_self

/-- R173, R180: the prologue of the words that it was packed into. -/
theorem extractPrologue_append (type : BitVec 4) (flags : BitVec 8) (count : BitVec 4) (size : BitVec 16)
    (w1 w2 : Word) (q : BitVec 64) :
    extractPrologue Config.phpc (type ++ flags ++ count ++ size) w1 w2 (highWord q) (lowWord q) =
      ⟨type, flags, count, size, w1, w2, q⟩ := by
  rw [extractPrologue, headerType_append, headerFlags_append, headerCount_append, headerSize_append,
    highWord_append_lowWord]

/-- Settles O25: the transport copies each raw word, which the decoder's normalizer turns back into the word that the
encoder built. -/
theorem dataPacketRoundTrip : Obligations.DataPacketRoundTrip := by
  intro s t s' ref heven hmax ht hcount hcopy
  have hfits : 6 + s.nsamp.toNat / 2 ≤ 65535 := by omega
  obtain ⟨_, ht', h0, h1, h2, h3, h4, hpayload, htrailer, -, hsize, -⟩ := encodeDataBuildsPacket.1 s heven hfits
  obtain rfl := Host.Outcome.next.inj (ht.symm.trans ht')
  have hS : (t.nOut.setWidth 16).toNat = 6 + s.nsamp.toNat / 2 := by
    rw [BitVec.toNat_setWidth, hsize]
    omega
  have hread : ∀ k w, k < 6 + s.nsamp.toNat / 2 → t.obufAt k = normWord Config.phpc w →
      normWord Config.phpc (s'.ibufAt k) = w := by
    intro k w hk hw
    rw [hcopy k (hsize ▸ hk), hw]
    exact normWord_involutive Config.phpc w
  obtain ⟨t', hexec, hraw, -, -, hnsamp, hcur, hpro, htrl, hframe⟩ := decodeDataExtractsPacket s' (t.nOut.setWidth 16)
    ref _ (hread 0 _ (by omega) h0).symm (by omega) (by rw [hcount, hS, hsize]) (headerType_append ..)
  rw [hS] at hraw hnsamp hcur htrl
  refine ⟨t', hexec, by rw [hframe], by rw [hframe], ?_, ?_, fun j hj => ?_, ?_, ?_⟩
  · rw [hpro, hread 1 _ (by omega) h1, hread 2 _ (by omega) h2, hread 3 _ (by omega) h3, hread 4 _ (by omega) h4]
    exact extractPrologue_append ..
  · exact BitVec.eq_of_toNat_eq (by omega)
  · obtain ⟨hi, hq⟩ := hraw (j / 2) (by omega)
    rw [hread _ _ (by omega) (hpayload (j / 2) (by omega))] at hi hq
    obtain heven | hodd : j = 2 * (j / 2) ∨ j = 2 * (j / 2) + 1 := by omega
    · rw [heven, hi]
      exact BitVec.extractLsb'_append_eq_left
    · rw [hodd, hq]
      exact BitVec.extractLsb'_append_eq_right
  · have hlast : 6 + s.nsamp.toNat / 2 - 1 = 5 + s.nsamp.toNat / 2 := by omega
    rw [htrl, hlast, hread _ _ (by omega) htrailer]
    exact decodeTrailer_packTrailerWord trailerApart_phpc _
  · exact BitVec.eq_of_toNat_eq (by omega)

end Sys2Proof.Machine
end

section
/-! PROOFS. Scaled samples (`spec/43_data_packet.md`): the product of a sample and the factor (R205), and the factor that
the machine takes, the Float nearest to a power of ten (R206). -/

namespace Sys2Proof.Machine

/-! ### The product (R205) -/

theorem floatIsNan_of_finite {x : F64} (h : floatIsFinite .binary64 x = true) : floatIsNan .binary64 x = false := by
  simp [floatIsNan, bne_iff_ne.mp h]

theorem floatIsInf_of_finite {x : F64} (h : floatIsFinite .binary64 x = true) : floatIsInf .binary64 x = false := by
  simp [floatIsInf, bne_iff_ne.mp h]

theorem floatIsNan_of_inf {x : F64} (h : floatIsInf .binary64 x = true) : floatIsNan .binary64 x = false := by
  simp only [floatIsInf, Bool.and_eq_true, beq_iff_eq] at h
  simp [floatIsNan, h]

theorem floatIsFinite_of_inf {x : F64} (h : floatIsInf .binary64 x = true) : floatIsFinite .binary64 x = false := by
  simp only [floatIsInf, Bool.and_eq_true, beq_iff_eq] at h
  simp [floatIsFinite, h]

section
variable {x y : F64}

theorem floatMul_of_nan (x : F64) (hy : floatIsNan .binary64 y = true) :
    floatMul .binary64 x y = floatNan .binary64 (Config.freeNan x y) := by
  simp [floatMul, hy]

section
variable (hx : floatIsFinite .binary64 x = true)
include hx

theorem floatMul_of_finite (hy : floatIsFinite .binary64 y = true) :
    floatMul .binary64 x y = roundToFloat .binary64 (floatSign .binary64 x != floatSign .binary64 y)
      (floatMant .binary64 x * floatMant .binary64 y) (floatScale .binary64 x + floatScale .binary64 y) := by
  simp [floatMul, floatIsNan_of_finite hx, floatIsNan_of_finite hy, floatIsInf_of_finite hx, floatIsInf_of_finite hy]

theorem floatMul_of_zero_inf (hzero : floatMant .binary64 x = 0) (hy : floatIsInf .binary64 y = true) :
    floatMul .binary64 x y = floatNan .binary64 (Config.freeNan x y) := by
  simp [floatMul, floatIsNan_of_finite hx, floatIsNan_of_inf hy, hy, hx, hzero]

theorem floatMul_of_ne_zero_inf (hne : floatMant .binary64 x ≠ 0) (hy : floatIsInf .binary64 y = true) :
    floatMul .binary64 x y = floatInf .binary64 (floatSign .binary64 x != floatSign .binary64 y) := by
  simp [floatMul, floatIsNan_of_finite hx, floatIsNan_of_inf hy, hy, hne, floatIsFinite_of_inf hy]

end

theorem abs_floatValue (x : F64) :
    |floatValue .binary64 x| = floatMant .binary64 x * 2 ^ floatScale .binary64 x := by
  have hpos : (0 : ℚ) ≤ floatMant .binary64 x * 2 ^ floatScale .binary64 x := by positivity
  rw [floatValue_eq, abs_mul, abs_signFactor, one_mul, abs_of_nonneg hpos]

theorem floatScale_le_of_finite (h : floatIsFinite .binary64 x = true) : floatScale .binary64 x ≤ 971 := by
  have hexp : floatExp .binary64 x < 2 ^ 11 := by rw [floatExp_eq]; exact Nat.mod_lt _ (by norm_num)
  rw [floatIsFinite_iff] at h
  rw [floatScale_eq]
  split <;> omega

/-- The greatest Float is half a unit below the numbers that overflow. -/
theorem abs_floatValue_lt_of_finite (h : floatIsFinite .binary64 x = true) :
    |floatValue .binary64 x| < 2 ^ 1024 - 2 ^ 970 := by
  have hmant : (floatMant .binary64 x : ℚ) ≤ 2 ^ 53 - 1 := by
    rw [le_sub_iff_add_le]
    exact_mod_cast floatMant_lt x
  have hpos : (0 : ℚ) < 2 ^ 970 := by positivity
  have hunit : (2 : ℚ) ^ (971 : Int) = 2 * 2 ^ 970 := by rw [zpow_ofNat, pow_succ']
  rw [abs_floatValue, two_pow_1024_eq]
  calc (floatMant .binary64 x : ℚ) * 2 ^ floatScale .binary64 x
    _ ≤ (2 ^ 53 - 1) * 2 ^ (971 : Int) :=
      mul_le_mul hmant (zpow_le_zpow_right₀ one_le_two (floatScale_le_of_finite h)) (by positivity) (by norm_num)
    _ < 2 ^ 54 * 2 ^ 970 - 2 ^ 970 := by
      rw [hunit]
      generalize (2 : ℚ) ^ 970 = u at hpos ⊢
      linarith

theorem signFactor_bne (a b : Bool) : signFactor (a != b) = signFactor a * signFactor b := by
  cases a <;> cases b <;> rfl

/-- R205: where it does not overflow, a product of two numbers is rounded once. -/
theorem nearestFloat_floatMul (hx : floatIsFinite .binary64 x = true) (hy : floatIsFinite .binary64 y = true)
    (hfits : |floatValue .binary64 x * floatValue .binary64 y| < 2 ^ 1024 - 2 ^ 970) :
    NearestFloat .binary64 ((floatValue .binary64 x * floatValue .binary64 y : ℚ) : ℝ) (floatMul .binary64 x y) := by
  have hmag : ((floatMant .binary64 x * floatMant .binary64 y : Nat) : ℚ) *
      2 ^ (floatScale .binary64 x + floatScale .binary64 y) = |floatValue .binary64 x * floatValue .binary64 y| := by
    rw [abs_mul, abs_floatValue, abs_floatValue, zpow_add₀ two_ne_zero]
    push_cast
    ring
  obtain ⟨q, sig, hround⟩ := exists_roundedAt_roundToFloat (floatSign .binary64 x != floatSign .binary64 y)
    (hmag.trans_lt hfits)
  have hvalue : signFactor (floatSign .binary64 x != floatSign .binary64 y) *
      (((floatMant .binary64 x * floatMant .binary64 y : Nat) : ℚ) *
        2 ^ (floatScale .binary64 x + floatScale .binary64 y)) = floatValue .binary64 x * floatValue .binary64 y := by
    rw [floatValue_eq, floatValue_eq, signFactor_bne, zpow_add₀ two_ne_zero]
    push_cast
    ring
  rw [floatMul_of_finite hx hy, ← hvalue]
  exact hround.nearestFloat

/-- A number that is a Float's is rounded to it. -/
theorem NearestFloat.value_eq (h : NearestFloat .binary64 (floatValue .binary64 y : ℝ) x)
    (hy : floatIsFinite .binary64 y = true) : floatValue .binary64 x = floatValue .binary64 y := by
  obtain ⟨-, hnearest⟩ := (nearestFloat_ratCast ..).mp h
  have hdist := (hnearest y hy).1
  rw [sub_self, abs_zero] at hdist
  exact sub_eq_zero.mp (abs_nonpos_iff.mp hdist)

end

/-! ### Scaled samples (R205) -/

theorem roundToFloatMag_le (fmt : FloatFmt) (m : Nat) (e : Int) : roundToFloatMag fmt m e ≤ floatInfMag fmt := by
  simp only [roundToFloatMag]
  split
  · exact Nat.zero_le _
  · split <;> omega

section
variable (raw : Sample)

theorem natAbs_toInt_sample_le : raw.toInt.natAbs ≤ 2 ^ 15 := by
  have hlow := BitVec.le_toInt raw
  have hhigh := BitVec.toInt_lt (x := raw)
  omega

theorem floatIsFinite_toFloat_sample : floatIsFinite .binary64 (toFloat .binary64 raw.toInt 15) = true :=
  (nearestFloat_toFloat 15 (by have := natAbs_toInt_sample_le raw; omega)).1

/-- D13: in binary64 the division is exact. -/
theorem floatValue_toFloat_sample : floatValue .binary64 (toFloat .binary64 raw.toInt 15) = raw.toInt / 2 ^ 15 :=
  floatValue_toFloat (by decide) (by have := natAbs_toInt_sample_le raw; omega)

theorem abs_floatValue_toFloat_sample_le : |floatValue .binary64 (toFloat .binary64 raw.toInt 15)| ≤ 1 := by
  have hle : |(raw.toInt : ℚ)| ≤ 2 ^ 15 := by
    rw [← Int.cast_abs, Int.abs_eq_natAbs]
    exact_mod_cast natAbs_toInt_sample_le raw
  rw [floatValue_toFloat_sample, abs_div, abs_of_pos (by positivity : (0 : ℚ) < 2 ^ 15)]
  exact div_le_one_of_le₀ hle (by positivity)

theorem scaleSample_eq (g : F64) :
    scaleSample .binary64 raw g = floatMul .binary64 (toFloat .binary64 raw.toInt 15) g := rfl

theorem nearestFloat_scaleSample {g : F64} (hg : floatIsFinite .binary64 g = true) :
    NearestFloat .binary64 (((raw.toInt : ℚ) / 2 ^ 15 * floatValue .binary64 g : ℚ) : ℝ)
      (scaleSample .binary64 raw g) := by
  rw [scaleSample_eq, ← floatValue_toFloat_sample]
  refine nearestFloat_floatMul (floatIsFinite_toFloat_sample raw) hg ?_
  rw [abs_mul]
  exact (mul_le_of_le_one_left (abs_nonneg _) (abs_floatValue_toFloat_sample_le raw)).trans_lt
    (abs_floatValue_lt_of_finite hg)

theorem floatSign_toFloat_sample : floatSign .binary64 (toFloat .binary64 raw.toInt 15) = decide (raw.toInt < 0) :=
  floatSign_floatOf _ ((roundToFloatMag_le ..).trans_lt (by decide))

theorem floatMant_toFloat_sample_ne_zero {raw : Sample} (h : raw ≠ 0) :
    floatMant .binary64 (toFloat .binary64 raw.toInt 15) ≠ 0 := by
  intro hzero
  have hvalue := floatValue_toFloat_sample raw
  rw [floatValue_eq, hzero, Nat.cast_zero, zero_mul, mul_zero, eq_comm, div_eq_zero_iff] at hvalue
  obtain hvalue | hpow := hvalue
  · exact h (BitVec.eq_of_toInt_eq (by exact_mod_cast hvalue))
  · exact absurd hpow (by positivity)

end

theorem floatValue_one : floatValue .binary64 0x3FF0000000000000 = 1 := by
  have hmant : floatMant .binary64 0x3FF0000000000000 = 2 ^ 52 := by decide
  have hscale : floatScale .binary64 0x3FF0000000000000 = -52 := by decide
  have hsign : floatSign .binary64 0x3FF0000000000000 = false := by decide
  rw [floatValue_eq, hmant, hscale, hsign]
  norm_num [signFactor]

theorem floatIsInf_floatInf (neg : Bool) : floatIsInf .binary64 (floatInf .binary64 neg) = true := by
  cases neg <;> decide

theorem floatSign_floatInf (neg : Bool) : floatSign .binary64 (floatInf .binary64 neg) = neg :=
  floatSign_floatOf neg (by decide)

/-- Settles O20: a sample over 2^15 is a Float of magnitude at most 1, so that its product with a number is rounded once
and cannot overflow, and the product by 1.0 is the sample itself. -/
theorem scaleSampleExactAndSpecial : Obligations.ScaleSampleExactAndSpecial := by
  refine ⟨fun raw g hg => ?finite, fun raw => ?one, fun raw g hg => ?nan, fun g hg => ?zero,
    fun raw g hne hg => ?inf⟩
  case finite => exact_mod_cast nearestFloat_scaleSample raw hg
  case one =>
    have hnearest := nearestFloat_scaleSample raw (g := 0x3FF0000000000000) (by decide)
    rw [floatValue_one, mul_one, ← floatValue_toFloat_sample] at hnearest
    rw [← floatValue_toFloat_sample]
    exact ⟨hnearest.1, hnearest.value_eq (floatIsFinite_toFloat_sample raw)⟩
  case nan =>
    rw [scaleSample_eq, floatMul_of_nan _ hg]
    exact floatIsNan_floatNan _
  case zero =>
    have hzero : floatMant .binary64 (toFloat .binary64 (0 : Sample).toInt 15) = 0 := by
      exact congrArg _ (toFloat_zero 15)
    rw [scaleSample_eq, floatMul_of_zero_inf (floatIsFinite_toFloat_sample 0) hzero hg]
    exact floatIsNan_floatNan _
  case inf =>
    rw [scaleSample_eq, floatMul_of_ne_zero_inf (floatIsFinite_toFloat_sample raw)
      (floatMant_toFloat_sample_ne_zero hne) hg]
    refine ⟨floatIsInf_floatInf _, ?_⟩
    rw [← floatSign_toFloat_sample]
    exact floatSign_floatInf _

/-! ### The Floats in order (R150) -/

/-- The number that exponent and fraction bits denote. -/
def magValue (b : Nat) : ℚ :=
  floatMant .binary64 (floatOf .binary64 false b) * 2 ^ floatScale .binary64 (floatOf .binary64 false b)

/-- The unit in the last place of the number that exponent and fraction bits denote. -/
def magUnit (b : Nat) : ℚ := 2 ^ floatScale .binary64 (floatOf .binary64 false b)

theorem magUnit_pos (b : Nat) : 0 < magUnit b := by
  unfold magUnit
  positivity

theorem magValue_nonneg (b : Nat) : 0 ≤ magValue b := by
  unfold magValue
  positivity

theorem floatValue_floatOf (neg : Bool) {b : Nat} (hb : b < 2 ^ 63) :
    floatValue .binary64 (floatOf .binary64 neg b) = signFactor neg * magValue b := by
  rw [floatValue_eq, magValue, floatMant_eq, floatMant_eq, floatScale_eq, floatScale_eq, floatSign_floatOf neg hb,
    floatExp_floatOf neg hb, floatExp_floatOf false hb, floatFrac_floatOf neg hb, floatFrac_floatOf false hb]

theorem floatValue_floatOf_false {b : Nat} (hb : b < 2 ^ 63) :
    floatValue .binary64 (floatOf .binary64 false b) = magValue b := by
  rw [floatValue_floatOf false hb, signFactor, if_neg Bool.false_ne_true, Int.cast_one, one_mul]

theorem floatValue_floatOf_true_nonpos {b : Nat} (hb : b < 2 ^ 63) :
    floatValue .binary64 (floatOf .binary64 true b) ≤ 0 := by
  rw [floatValue_floatOf true hb, signFactor, if_pos rfl, Int.cast_neg, Int.cast_one, neg_one_mul]
  exact neg_nonpos.mpr (magValue_nonneg b)

/-- A Float is its sign bit above its exponent and fraction bits. -/
theorem exists_floatOf_of_finite {y : F64} (h : floatIsFinite .binary64 y = true) :
    ∃ neg, ∃ m < 2047 * 2 ^ 52, y = floatOf .binary64 neg m := by
  rw [floatIsFinite_iff, floatExp_eq] at h
  have hy := y.isLt
  refine ⟨decide (2 ^ 63 ≤ y.toNat), y.toNat % 2 ^ 63, by omega, BitVec.eq_of_toNat_eq ?_⟩
  rw [toNat_floatOf _ (Nat.mod_lt _ (by decide))]
  by_cases hneg : 2 ^ 63 ≤ y.toNat
  · rw [decide_eq_true hneg, Bool.toNat_true]
    omega
  · rw [decide_eq_false hneg, Bool.toNat_false]
    omega

/-- Exponent and fraction bits are an exponent above a significand, whose leading 1 counts as one of the exponent's. -/
theorem exists_exponent_significand (b : Nat) :
    ∃ e sig, b = e * 2 ^ 52 + sig ∧ sig < 2 ^ 53 ∧ (0 < e → 2 ^ 52 ≤ sig) := by
  refine ⟨b / 2 ^ 52 - 1, b - (b / 2 ^ 52 - 1) * 2 ^ 52, ?_, ?_, ?_⟩ <;> omega

theorem magUnit_eq {e sig : Nat} (hsig : sig < 2 ^ 53) (hnormal : 0 < e → 2 ^ 52 ≤ sig)
    (hfits : e * 2 ^ 52 + sig < 2 ^ 63) : magUnit (e * 2 ^ 52 + sig) = 2 ^ ((e : Int) - 1074) := by
  rw [magUnit, floatScale_eq, floatExp_floatOf false hfits]
  congr 1
  split <;> omega

/-- The next Float is one unit in the last place up, also across a power of two. -/
theorem magValue_succ {b : Nat} (hb : b + 1 < 2 ^ 63) : magValue (b + 1) = magValue b + magUnit b := by
  obtain ⟨e, sig, rfl, hsig, hnormal⟩ := exists_exponent_significand b
  have hfits : e * 2 ^ 52 + sig < 2 ^ 63 := Nat.lt_of_succ_lt hb
  rw [add_assoc] at hb ⊢
  have hvalue : magValue (e * 2 ^ 52 + sig) = sig * 2 ^ ((e : Int) - 1074) :=
    floatMant_floatScale_floatOf false hsig.le hnormal hfits
  have hnext : magValue (e * 2 ^ 52 + (sig + 1)) = (sig + 1 : Nat) * 2 ^ ((e : Int) - 1074) :=
    floatMant_floatScale_floatOf false hsig (fun he => (hnormal he).trans (Nat.le_succ sig)) hb
  rw [hnext, hvalue, magUnit_eq hsig hnormal hfits]
  push_cast
  ring

theorem magValue_le_of_le {a b : Nat} (hab : a ≤ b) (hb : b < 2 ^ 63) : magValue a ≤ magValue b := by
  induction b, hab using Nat.le_induction with
  | base => exact le_rfl
  | succ b hab ih =>
    rw [magValue_succ hb]
    exact (ih (by omega)).trans (le_add_of_nonneg_right (magUnit_pos b).le)

/-- There is no Float between two that are next to each other. -/
theorem floatValue_le_or_ge {b : Nat} (hb : b < 2047 * 2 ^ 52) {y : F64} (hy : floatIsFinite .binary64 y = true) :
    floatValue .binary64 y ≤ magValue b ∨ magValue b + magUnit b ≤ floatValue .binary64 y := by
  obtain ⟨neg, m, hm, rfl⟩ := exists_floatOf_of_finite hy
  cases neg with
  | true => exact .inl ((floatValue_floatOf_true_nonpos (by omega)).trans (magValue_nonneg b))
  | false =>
    rw [floatValue_floatOf_false (by omega)]
    obtain hle | hgt := le_or_gt m b
    · exact .inl (magValue_le_of_le hle (by omega))
    · right
      rw [← magValue_succ (by omega)]
      exact magValue_le_of_le hgt (by omega)

/-! ### The power of ten, rounded (R206) -/

/-- The number between two Floats that are next to each other. -/
def magMiddle (b : Nat) : ℚ := magValue b + magUnit b / 2

/-- `b` are the exponent and fraction bits of the greatest Float at most `P`, and `r` those of the nearer of it and the
next one, the even one on a tie. -/
structure RoundedBits (P : ℝ) (b r : Nat) : Prop where
  finite : b < 2047 * 2 ^ 52
  le : (magValue b : ℝ) ≤ P
  lt : ∀ b', b < b' → b' < 2047 * 2 ^ 52 → P < magValue b'
  round : (r = b ∧ (P < magMiddle b ∨ P = magMiddle b ∧ b % 2 = 0)) ∨
    (r = b + 1 ∧ (magMiddle b < P ∨ P = magMiddle b ∧ b % 2 = 1))

section
variable {a u v P : ℝ} (hv : v ≤ a ∨ a + u ≤ v)
include hv

/-- Up to the middle of a gap its lower end is nearest, and as near as the upper end only in the middle. -/
theorem nearest_of_le_middle (hle : a ≤ P) (hhalf : P ≤ a + u / 2) :
    |a - P| ≤ |v - P| ∧ (v ≠ a → |v - P| = |a - P| → P = a + u / 2) := by
  rw [abs_of_nonpos (by linarith : a - P ≤ 0)]
  obtain hv | hv := hv
  · rw [abs_of_nonpos (by linarith : v - P ≤ 0)]
    exact ⟨by linarith, fun hne htie => absurd (by linarith) hne⟩
  · rw [abs_of_nonneg (by linarith : 0 ≤ v - P)]
    exact ⟨by linarith, fun hne htie => by linarith⟩

/-- From the middle of a gap on its upper end is nearest, and as near as the lower end only in the middle. -/
theorem nearest_of_middle_le (hle : P ≤ a + u) (hhalf : a + u / 2 ≤ P) :
    |a + u - P| ≤ |v - P| ∧ (v ≠ a + u → |v - P| = |a + u - P| → P = a + u / 2) := by
  rw [abs_of_nonneg (by linarith : 0 ≤ a + u - P)]
  obtain hv | hv := hv
  · rw [abs_of_nonpos (by linarith : v - P ≤ 0)]
    exact ⟨by linarith, fun hne htie => by linarith⟩
  · rw [abs_of_nonneg (by linarith : 0 ≤ v - P)]
    exact ⟨by linarith, fun hne htie => absurd (by linarith) hne⟩

end

theorem cast_magMiddle (b : Nat) : (magMiddle b : ℝ) = magValue b + magUnit b / 2 := by
  rw [magMiddle]
  push_cast
  rfl

theorem magValue_le_magMiddle (b : Nat) : (magValue b : ℝ) ≤ magMiddle b := by
  have hunit : (0 : ℝ) < magUnit b := by exact_mod_cast magUnit_pos b
  rw [cast_magMiddle]
  linarith

theorem cast_magValue_succ {b : Nat} (hb : b + 1 < 2 ^ 63) :
    (magValue (b + 1) : ℝ) = magValue b + magUnit b := by
  rw [magValue_succ hb]
  push_cast
  rfl

section
variable {P : ℝ} {b r : Nat}

/-- R206: where the nearer of the two is finite, it is the nearest of all Floats. -/
theorem RoundedBits.nearestFloat (h : RoundedBits P b r) (hr : r < 2047 * 2 ^ 52) :
    NearestFloat .binary64 P (floatOf .binary64 false r) := by
  obtain ⟨hfinite, hle, hlt, hround⟩ := h
  refine ⟨?_, fun y hy => ?_⟩
  · rw [floatIsFinite_iff, floatExp_floatOf _ (by omega)]
    omega
  rw [getLsbD_zero_floatOf _ (by omega), decide_eq_false_iff_not, floatValue_floatOf_false (by omega), ne_eq,
    ← Rat.cast_inj (α := ℝ)]
  have hgap : (floatValue .binary64 y : ℝ) ≤ magValue b ∨ (magValue b : ℝ) + magUnit b ≤ floatValue .binary64 y := by
    exact_mod_cast floatValue_le_or_ge hfinite hy
  simp only [cast_magMiddle] at hround
  obtain ⟨rfl, hbelow⟩ | ⟨rfl, habove⟩ := hround
  · obtain ⟨hnear, htie⟩ := nearest_of_le_middle hgap hle (hbelow.elim le_of_lt fun h => h.1.le)
    refine ⟨hnear, fun hne heq => ?_⟩
    obtain hlt | ⟨-, heven⟩ := hbelow
    · exact absurd (htie hne heq) hlt.ne
    · omega
  · have hnext := cast_magValue_succ (b := b) (by omega)
    have hlt' := (hlt (b + 1) (Nat.lt_succ_self b) hr).le
    rw [hnext] at hlt' ⊢
    obtain ⟨hnear, htie⟩ := nearest_of_middle_le hgap hlt' (habove.elim le_of_lt fun h => h.1.ge)
    refine ⟨hnear, fun hne heq => ?_⟩
    obtain hgt | ⟨-, hodd⟩ := habove
    · exact absurd (htie hne heq) hgt.ne'
    · omega

/-- Half a unit above the greatest Float. -/
theorem magMiddle_greatest : magMiddle (2047 * 2 ^ 52 - 1) = 2 ^ 1024 - 2 ^ 970 := by
  have hbits : 2047 * 2 ^ 52 - 1 = 2045 * 2 ^ 52 + (2 ^ 53 - 1) := by norm_num
  have hvalue : magValue (2045 * 2 ^ 52 + (2 ^ 53 - 1)) = (2 ^ 53 - 1 : Nat) * 2 ^ (((2045 : Nat) : Int) - 1074) :=
    floatMant_floatScale_floatOf false (by norm_num) (by norm_num) (by norm_num)
  have hunit : (2 : ℚ) ^ (((2045 : Nat) : Int) - 1074) = 2 * 2 ^ 970 := by
    rw [show ((2045 : Nat) : Int) - 1074 = (971 : Nat) from rfl, zpow_natCast, pow_succ']
  rw [magMiddle, hbits, hvalue, magUnit_eq (by norm_num) (by norm_num) (by norm_num), hunit, two_pow_1024_eq]
  generalize (2 : ℚ) ^ 970 = u
  norm_num
  ring

theorem cast_magMiddle_greatest : (magMiddle (2047 * 2 ^ 52 - 1) : ℝ) = 2 ^ 1024 - 2 ^ 970 := by
  rw [magMiddle_greatest, Rat.cast_sub, Rat.cast_pow, Rat.cast_pow, Rat.cast_ofNat]

/-- R206: below the middle between the greatest Float and the next power of two there is no overflow. -/
theorem RoundedBits.finite_of_lt (h : RoundedBits P b r) (hP : P < 2 ^ 1024 - 2 ^ 970) : r < 2047 * 2 ^ 52 := by
  have hfinite := h.finite
  obtain ⟨rfl, -⟩ | ⟨rfl, habove⟩ := h.round
  · exact hfinite
  · by_contra hinf
    obtain rfl : b = 2047 * 2 ^ 52 - 1 := by omega
    rw [cast_magMiddle_greatest] at habove
    exact absurd hP (not_lt.mpr (habove.elim le_of_lt fun h => h.1.ge))

/-- R206, log 12: from there on the infinity is taken; the greatest Float is odd. -/
theorem RoundedBits.infinite_of_le (h : RoundedBits P b r) (hP : 2 ^ 1024 - 2 ^ 970 ≤ P) : r = 2047 * 2 ^ 52 := by
  obtain ⟨hfinite, -, hlt, hround⟩ := h
  rw [← cast_magMiddle_greatest] at hP
  have hgreatest : b = 2047 * 2 ^ 52 - 1 := by
    by_contra hne
    have hbelow := hlt (2047 * 2 ^ 52 - 1) (by omega) (by norm_num)
    exact absurd (hbelow.trans_le (magValue_le_magMiddle _)) (not_lt.mpr hP)
  rw [hgreatest] at hround
  obtain ⟨-, hbelow | ⟨-, heven⟩⟩ | ⟨rfl, -⟩ := hround
  · exact absurd hbelow (not_lt.mpr hP)
  · norm_num at heven
  · norm_num

end

/-- The test on the middle, by its outcome. -/
theorem roundPow10Mag_of_compare {fmt : FloatFmt} {neg : Bool} {n d b : Nat} {o : Ordering}
    (hb : floorPow10Mag fmt neg n d = b)
    (ho : comparePow10 neg n d (2 * floatMant fmt (floatOf fmt false b) + 1)
      (floatScale fmt (floatOf fmt false b) - 1) = o) : roundPow10Mag fmt neg n d = if o = .lt ∨ (o = .eq ∧ b % 2 = 1) then b + 1 else b := by
  simp only [roundPow10Mag, hb, ho]
  cases o <;> simp

/-- `10^(n/d)`, or `10^(-n/d)` when `neg`. -/
noncomputable def tenPower (neg : Bool) (n d : Nat) : ℝ := (10 : ℝ) ^ ((if neg then -(n : ℝ) else n) / d)

section
variable (neg : Bool) (n : Nat) {d : Nat} (hd : 0 < d)

theorem tenPower_pos (d : Nat) : 0 < tenPower neg n d := Real.rpow_pos_of_pos (by norm_num) _

/-- The test of the search: the Float of the bits is finite and not above the power. -/
def belowTenPower (neg : Bool) (n d b : Nat) : Bool :=
  decide (b < floatInfMag .binary64) &&
    comparePow10 neg n d (floatMant .binary64 (floatOf .binary64 false b))
      (floatScale .binary64 (floatOf .binary64 false b)) != .gt

theorem floorPow10Mag_eq (d : Nat) :
    floorPow10Mag .binary64 neg n d = greatestBelow (belowTenPower neg n d) 63 0 := rfl

include hd

theorem belowTenPower_iff (b : Nat) :
    belowTenPower neg n d b = true ↔ b < 2047 * 2 ^ 52 ∧ (magValue b : ℝ) ≤ tenPower neg n d := by
  have hcompare : comparePow10 neg n d (floatMant .binary64 (floatOf .binary64 false b))
      (floatScale .binary64 (floatOf .binary64 false b)) = compare (magValue b : ℝ) (tenPower neg n d) := by
    rw [comparePow10_eq_compare _ _ _ _ _ hd, magValue]
    push_cast
    rfl
  rw [belowTenPower, hcompare, Bool.and_eq_true, decide_eq_true_eq, bne_iff_ne, compare_le_iff_le]
  rfl

theorem magMiddle_compare (b : Nat) :
    comparePow10 neg n d (2 * floatMant .binary64 (floatOf .binary64 false b) + 1)
      (floatScale .binary64 (floatOf .binary64 false b) - 1) = compare (magMiddle b : ℝ) (tenPower neg n d) := by
  rw [comparePow10_eq_compare _ _ _ _ _ hd, tenPower]
  congr 1
  rw [magMiddle, magValue, magUnit, zpow_sub_one₀ two_ne_zero]
  push_cast
  ring

theorem belowTenPower_zero : belowTenPower neg n d 0 = true := by
  have hmant : floatMant .binary64 (floatOf .binary64 false 0) = 0 := by decide
  rw [belowTenPower_iff _ _ hd, magValue, hmant, Nat.cast_zero, zero_mul, Rat.cast_zero]
  exact ⟨by norm_num, (tenPower_pos neg n d).le⟩

theorem belowTenPower_of_le {a b : Nat} (hab : a ≤ b) (hb : belowTenPower neg n d b = true) :
    belowTenPower neg n d a = true := by
  rw [belowTenPower_iff _ _ hd] at hb ⊢
  obtain ⟨hfinite, hle⟩ := hb
  have hvalue : (magValue a : ℝ) ≤ magValue b := by exact_mod_cast magValue_le_of_le hab (by omega)
  exact ⟨by omega, hvalue.trans hle⟩

variable {b : Nat} (hb : floorPow10Mag .binary64 neg n d = b)
include hb

/-- R206: the search finds the greatest Float that is at most the power. -/
theorem floorPow10Mag_spec :
    belowTenPower neg n d b = true ∧ ∀ b', b < b' → b' < 2 ^ 63 → belowTenPower neg n d b' = false := by
  obtain ⟨hbelow, -, habove⟩ := greatestBelow_spec (belowTenPower neg n d)
    (fun _ _ hab => belowTenPower_of_le neg n hd hab) 63 0 (belowTenPower_zero neg n hd)
  rw [← floorPow10Mag_eq, hb] at hbelow habove
  rw [Nat.zero_add] at habove
  exact ⟨hbelow, habove⟩

/-- R206: the Float below the power or the next one, as the test on the middle says. -/
theorem roundedBits_roundPow10Mag : RoundedBits (tenPower neg n d) b (roundPow10Mag .binary64 neg n d) := by
  obtain ⟨hbelow, habove⟩ := floorPow10Mag_spec neg n hd hb
  obtain ⟨hfinite, hle⟩ := (belowTenPower_iff _ _ hd _).mp hbelow
  have hround := fun o ho => roundPow10Mag_of_compare hb ((magMiddle_compare neg n hd b).trans ho) (o := o)
  refine ⟨hfinite, hle, fun b' hb' hfinite' => ?_, ?_⟩
  · have hnot := habove b' hb' (by omega)
    rw [Bool.eq_false_iff, ne_eq, belowTenPower_iff _ _ hd, not_and, not_le] at hnot
    exact hnot hfinite'
  · obtain hlt | heq | hgt := lt_trichotomy (magMiddle b : ℝ) (tenPower neg n d)
    · rw [hround _ (compare_lt_iff_lt.mpr hlt)]
      exact .inr ⟨rfl, .inl hlt⟩
    · rw [hround _ (compare_eq_iff_eq.mpr heq)]
      obtain heven | hodd := Nat.mod_two_eq_zero_or_one b
      · exact .inl ⟨by simp [heven], .inr ⟨heq.symm, heven⟩⟩
      · exact .inr ⟨by simp [hodd], .inr ⟨heq.symm, hodd⟩⟩
    · rw [hround _ (compare_gt_iff_gt.mpr hgt)]
      exact .inl ⟨rfl, .inl hgt⟩

end

/-! ### The scale factor (R206) -/

theorem two_zpow_mul_toNat_neg (e : Int) : (2 : ℝ) ^ e * 2 ^ (-e).toNat = 2 ^ e.toNat := by
  rw [← zpow_natCast, ← zpow_natCast, ← zpow_add₀ two_ne_zero]
  congr 1
  omega

/-- R206: the fraction in lowest terms is the level over 20. -/
theorem twentieths_spec (m : Nat) (e : Int) : 0 < (twentieths m e).2 ∧
    ((twentieths m e).1 : ℝ) / (twentieths m e).2 = (m : ℝ) * 2 ^ e / 20 := by
  have hd : 0 < 20 * 2 ^ (-e).toNat := by positivity
  rw [twentieths]
  simp only
  generalize hn : m * 2 ^ e.toNat = n
  generalize hd' : 20 * 2 ^ (-e).toNat = d at hd ⊢
  have hgcd : 0 < Nat.gcd n d := Nat.gcd_pos_of_pos_right n hd
  refine ⟨Nat.div_pos (Nat.gcd_le_right n hd) hgcd, ?_⟩
  have hne : ((Nat.gcd n d : Nat) : ℝ) ≠ 0 := by positivity
  rw [Nat.cast_div (Nat.gcd_dvd_left n d) hne, Nat.cast_div (Nat.gcd_dvd_right n d) hne,
    div_div_div_cancel_right₀ hne, ← hn, ← hd']
  push_cast
  rw [← two_zpow_mul_toNat_neg]
  field_simp

theorem tenPower_twentieths (x : F64) :
    tenPower (floatSign .binary64 x) (twentieths (floatMant .binary64 x) (floatScale .binary64 x)).1
      (twentieths (floatMant .binary64 x) (floatScale .binary64 x)).2 =
        (10 : ℝ) ^ ((floatValue .binary64 x : ℝ) / 20) := by
  obtain ⟨-, hlevel⟩ := twentieths_spec (floatMant .binary64 x) (floatScale .binary64 x)
  have hsign : ∀ (neg : Bool) (a : ℝ), (if neg then -a else a) = (signFactor neg : ℝ) * a := by
    intro neg a
    cases neg <;> simp [signFactor]
  rw [tenPower, hsign, mul_div_assoc, hlevel, floatValue_eq]
  push_cast
  ring_nf

theorem refScaleTaken_of_finite {x : F64} (h : floatIsFinite .binary64 x = true) :
    ∃ b r, RoundedBits ((10 : ℝ) ^ ((floatValue .binary64 x : ℝ) / 20)) b r ∧
      refScaleTaken .binary64 x = floatOf .binary64 false r := by
  have hround := roundedBits_roundPow10Mag (floatSign .binary64 x)
    (twentieths (floatMant .binary64 x) (floatScale .binary64 x)).1
    (twentieths_spec (floatMant .binary64 x) (floatScale .binary64 x)).1 rfl
  rw [tenPower_twentieths] at hround
  refine ⟨_, _, hround, ?_⟩
  rw [refScaleTaken, floatIsNan_of_finite h, floatIsInf_of_finite h]
  rfl

/-- Settles O55: the search finds the Float below the power of ten, and the middle between it and the next decides which
of the two is nearer; no Float lies between them. -/
theorem refScaleIsRoundedPowerOfTen : Obligations.RefScaleIsRoundedPowerOfTen := by
  refine ⟨fun x hnan => ?nan, by decide, by decide, fun x hx => ?finite, by decide +kernel, by decide +kernel⟩
  case nan =>
    show floatIsNan .binary64 (refScaleTaken .binary64 x) = true
    rw [refScaleTaken, if_pos hnan]
    exact floatIsNan_floatNan _
  case finite =>
    obtain ⟨b, r, hround, hscale⟩ := refScaleTaken_of_finite hx
    rw [show Config.phpc.refScale x = floatOf .binary64 false r from hscale]
    refine ⟨fun hP => ?_, fun hP => ?_⟩
    · have hr := hround.finite_of_lt hP
      exact ⟨floatSign_floatOf false (by omega), hround.nearestFloat hr⟩
    · rw [hround.infinite_of_le hP]
      decide

end Sys2Proof.Machine
end

section
/-! PROOFS. Context packets (`spec/44_context_packet.md`): the indicator word (R260, R261), the walk over the field
table (R244, R248), DECODE_CONTEXT, and what GEO_SKIP_WHEN_ABSENT changes of it (R245). -/

namespace Sys2Proof.Machine

/-! ### The indicator word (R241, R260, R261) -/

/-- R241: the rows' bits are distinct bits of the word. -/
structure RowBitsApart (rows : List FieldRow) : Prop where
  bit_inj : ∀ r ∈ rows, ∀ q ∈ rows, r.bit = q.bit → r = q
  bit_lt : ∀ r ∈ rows, r.bit < 32

theorem rowBitsApart_of_ok {rows : List FieldRow} (h : fieldTableOk rows = true) : RowBitsApart rows := by
  simp only [fieldTableOk, Bool.and_eq_true, decide_eq_true_eq, List.all_eq_true] at h
  obtain ⟨⟨hnodup, hrange⟩, -⟩ := h
  exact { bit_inj := fun r hr q hq => List.inj_on_of_nodup_map hnodup hr hq, bit_lt := hrange }

theorem rowBitsApart_default : RowBitsApart Config.defaultFieldTable := rowBitsApart_of_ok (by decide)

theorem getLsbD_packIndicatorRows_eq_true_iff (x : ContextRec) (rows : List FieldRow) {b : Nat} (hb : b < 32) :
    (packIndicatorRows x rows).getLsbD b = true ↔ ∃ r ∈ rows, x.present r = true ∧ r.bit = b := by
  induction rows with
  | nil => simp [packIndicatorRows]
  | cons r rows ih =>
    rw [packIndicatorRows, BitVec.getLsbD_or, Bool.or_eq_true, ih, List.exists_mem_cons_iff]
    by_cases hpresent : x.present r = true <;> simp [hpresent, hb, @eq_comm _ b]

theorem getLsbD_packIndicatorRows_bit {rows : List FieldRow} (h : RowBitsApart rows) (x : ContextRec) {r : FieldRow}
    (hr : r ∈ rows) : (packIndicatorRows x rows).getLsbD r.bit = x.present r := by
  rw [Bool.eq_iff_iff, getLsbD_packIndicatorRows_eq_true_iff x rows (h.bit_lt r hr)]
  constructor
  · rintro ⟨q, hq, hpresent, hbit⟩
    rwa [h.bit_inj q hq r hr hbit] at hpresent
  · exact fun hpresent => ⟨r, hr, hpresent, rfl⟩

theorem getLsbD_foldl_tableMask_eq_true_iff (rows : List FieldRow) (m : Word) {b : Nat} (hb : b < 32) :
    (rows.foldl (fun m r => m ||| BitVec.twoPow 32 r.bit) m).getLsbD b = true ↔
      m.getLsbD b = true ∨ ∃ r ∈ rows, r.bit = b := by
  induction rows generalizing m with
  | nil => simp
  | cons r rows ih =>
    rw [List.foldl_cons, ih, BitVec.getLsbD_or, Bool.or_eq_true, List.exists_mem_cons_iff, or_assoc]
    simp [hb, @eq_comm _ b]

theorem getLsbD_tableMask_eq_true_iff (c : Config) {b : Nat} (hb : b < 32) :
    c.tableMask.getLsbD b = true ↔ ∃ r ∈ c.fieldTable, r.bit = b := by
  rw [Config.tableMask, getLsbD_foldl_tableMask_eq_true_iff _ _ hb]
  simp

theorem tableMask_phpc : Config.phpc.tableMask = 0xFFFFC000 := by decide

/-- Settles O31: a bit of either word is set by the rows of that bit, of which a table allowed has one at most. -/
theorem indicatorAndPresenceAgree : Obligations.IndicatorAndPresenceAgree := by
  refine ⟨fun c x row hok hrow => getLsbD_packIndicatorRows_bit (rowBitsApart_of_ok hok) x hrow,
    fun c ind x hok hpresence => BitVec.eq_of_getLsbD_eq fun b hb => ?_, tableMask_phpc⟩
  rw [BitVec.getLsbD_and, Bool.eq_iff_iff, Bool.and_eq_true, getLsbD_tableMask_eq_true_iff c hb, packIndicatorWord,
    getLsbD_packIndicatorRows_eq_true_iff x _ hb]
  constructor
  · rintro ⟨r, hr, hpresent, rfl⟩
    exact ⟨hpresence r hr ▸ hpresent, r, hr, rfl⟩
  · rintro ⟨hbit, r, hr, rfl⟩
    exact ⟨r, hr, (hpresence r hr).trans hbit, rfl⟩

section
variable (x : ContextRec)

theorem getLsbD_packIndicatorWord_bit {row : FieldRow} (hrow : row ∈ Config.defaultFieldTable) :
    (packIndicatorWord Config.phpc x).getLsbD row.bit = x.present row :=
  getLsbD_packIndicatorRows_bit rowBitsApart_default x hrow

/-- The default table has no row of a bit below 14. -/
theorem getLsbD_packIndicatorWord_of_lt {b : Nat} (hb : b < 14) :
    (packIndicatorWord Config.phpc x).getLsbD b = false := by
  have hbits : ∀ r ∈ Config.defaultFieldTable, 14 ≤ r.bit := by decide
  rw [Bool.eq_false_iff, ne_eq, packIndicatorWord, getLsbD_packIndicatorRows_eq_true_iff x _ (by omega)]
  rintro ⟨r, hr, -, hbit⟩
  have := hbits r hr
  omega

theorem packIndicatorWord_and_unknown : packIndicatorWord Config.phpc x &&& 0x3FFF = 0#32 := by
  have hmask : ∀ b : Fin 32, 14 ≤ b.val → (0x3FFF : Word).getLsbD b = false := by decide
  refine BitVec.eq_of_getLsbD_eq fun b hb => ?_
  rw [BitVec.getLsbD_and, BitVec.getLsbD_zero, Bool.and_eq_false_iff]
  by_cases hlow : b < 14
  · exact .inl (getLsbD_packIndicatorWord_of_lt x hlow)
  · exact .inr (hmask ⟨b, hb⟩ (not_lt.mp hlow))

end

/-- Settles O32: the command packs the record's own presence flags and completes. -/
theorem packIndicatorSetsPresenceBits : Obligations.PackIndicatorSetsPresenceBits := by
  intro s
  refine ⟨packIndicatorWord Config.phpc s.record.ctx, ?_, fun row => getLsbD_packIndicatorWord_bit _,
    fun b => getLsbD_packIndicatorWord_of_lt _⟩
  show Host.Outcome.next (packIndicatorOp Config.phpc s) = _
  rw [packIndicatorOp, complete, statusOk_eq]

/-! ### The walk over the field table (R244, R248) -/

/-- R248: how far a row of the walk moves the cursor. -/
def rowWidth (ind : Word) (r : FieldRow) : Nat := if ind.getLsbD r.bit then r.dec.width else 0

theorem rowWidth_of_present {ind : Word} {r : FieldRow} (h : ind.getLsbD r.bit = true) :
    rowWidth ind r = r.dec.width := if_pos h

theorem rowWidth_of_absent {ind : Word} {r : FieldRow} (h : ind.getLsbD r.bit = false) : rowWidth ind r = 0 :=
  if_neg (by simp [h])

@[simp] theorem presentWidth_nil (ind : Word) : presentWidth ind [] = 0 := rfl

@[simp] theorem presentWidth_cons (ind : Word) (r : FieldRow) (rows : List FieldRow) :
    presentWidth ind (r :: rows) = rowWidth ind r + presentWidth ind rows := by
  simp [presentWidth, rowWidth]

/-- The rows up to one of the table end no later than the whole table. -/
theorem presentWidth_take_add_le (ind : Word) {rows : List FieldRow} {r : Nat} {row : FieldRow}
    (h : rows[r]? = some row) : presentWidth ind (rows.take r) + rowWidth ind row ≤ presentWidth ind rows := by
  induction rows generalizing r with
  | nil => simp at h
  | cons q rows ih =>
    cases r with
    | zero =>
      obtain rfl : q = row := by simpa using h
      simp
    | succ r =>
      have := ih (by simpa using h)
      simp only [List.take_succ_cons, presentWidth_cons]
      omega

theorem presentWidth_le_sum (ind : Word) (rows : List FieldRow) :
    presentWidth ind rows ≤ (rows.map (·.dec.width)).sum := by
  induction rows with
  | nil => rfl
  | cons r rows ih =>
    have : rowWidth ind r ≤ r.dec.width := by
      unfold rowWidth
      split <;> omega
    simp only [presentWidth_cons, List.map_cons, List.sum_cons]
    omega

/-- R248: the final cursor of the default table. -/
theorem fieldPos_eighteen (ind : Word) : fieldPos ind 18 = 6 + presentWidth ind Config.defaultFieldTable := rfl

theorem fieldPos_eighteen_le (ind : Word) : fieldPos ind 18 ≤ 42 := by
  have hsum : (Config.defaultFieldTable.map (·.dec.width)).sum = 36 := by decide
  have := presentWidth_le_sum ind Config.defaultFieldTable
  rw [fieldPos_eighteen]
  omega

theorem fieldPos_add_rowWidth_le (ind : Word) {r : Nat} {row : FieldRow}
    (h : Config.defaultFieldTable[r]? = some row) : fieldPos ind r + rowWidth ind row ≤ fieldPos ind 18 := by
  have := presentWidth_take_add_le ind h
  rw [fieldPos, fieldPos_eighteen]
  omega

/-- R244: the member that a row of the walk gives a value. -/
def fieldAt (c : Config) (ind : Word) (rd : Nat → Word) (row : FieldRow) (cur : Nat) : Option FieldValue :=
  if ind.getLsbD row.bit then some (decodeValue c row.dec fun k => rd (cur + k)) else none

/-- R244: the record after a walk that skips nothing and meets no bound. -/
def walkedRecord (c : Config) (ind : Word) (rd : Nat → Word) : List FieldRow → Nat → ContextRec → ContextRec
  | [], _, x => x
  | r :: rows, cur, x => walkedRecord c ind rd rows (cur + rowWidth ind r) (x.set r.name (fieldAt c ind rd r cur))

section
variable {ind : Word} {rd : Nat → Word} {S : Nat}

theorem walkRow_of_fits {r : FieldRow} {cur : Nat} (h : cur + rowWidth ind r ≤ S) (idx : Nat) (x : ContextRec) :
    walkRow Config.phpc S idx r (ind.getLsbD r.bit) rd cur x =
      .ok (x.set r.name (fieldAt Config.phpc ind rd r cur), cur + rowWidth ind r) := by
  cases hbit : ind.getLsbD r.bit with
  | false => rw [walkRow_absent, skipWords_phpc, rowWidth_of_absent hbit, fieldAt, hbit]; rfl
  | true =>
    rw [rowWidth_of_present hbit] at h ⊢
    rw [walkRow_present _ _ _ _ _ _ _ (.inr h), fieldAt, hbit]
    rfl

theorem walk_cons_of_ok {c : Config} {r : FieldRow} {idx cur cur' : Nat} {x x' : ContextRec}
    (h : walkRow c S idx r (ind.getLsbD r.bit) rd cur x = .ok (x', cur')) (rows : List FieldRow) :
    walk c S ind rd idx (r :: rows) cur x = walk c S ind rd (idx + 1) rows cur' x' := by
  rw [walk, h]

theorem walk_cons_of_error {c : Config} {r : FieldRow} {idx cur : Nat} {x : ContextRec} {e : ErrorOutcome}
    (h : walkRow c S idx r (ind.getLsbD r.bit) rd cur x = .error e) (rows : List FieldRow) :
    walk c S ind rd idx (r :: rows) cur x = .error e := by
  rw [walk, h]

theorem walk_of_fits {rows : List FieldRow} {cur : Nat} (h : cur + presentWidth ind rows ≤ S) (idx : Nat)
    (x : ContextRec) : walk Config.phpc S ind rd idx rows cur x =
      .ok (walkedRecord Config.phpc ind rd rows cur x, cur + presentWidth ind rows) := by
  induction rows generalizing idx cur x with
  | nil => rfl
  | cons r rows ih =>
    rw [presentWidth_cons, ← Nat.add_assoc] at h ⊢
    rw [walk_cons_of_ok (walkRow_of_fits (Nat.le_of_add_right_le h) idx x), ih h, walkedRecord]

/-- R244: a present row whose words would pass the bound ends the walk, when all rows before it fit. -/
theorem walk_of_truncated {rows : List FieldRow} {r cur : Nat} {row : FieldRow} (hrow : rows[r]? = some row)
    (hbit : ind.getLsbD row.bit = true) (hwords : 0 < row.dec.width)
    (hstart : cur + presentWidth ind (rows.take r) ≤ S)
    (hend : S < cur + presentWidth ind (rows.take r) + row.dec.width) (idx : Nat) (x : ContextRec) :
    walk Config.phpc S ind rd idx rows cur x = .error (.truncatedField (BitVec.ofNat 6 (idx + r))
      (BitVec.ofNat 17 (cur + presentWidth ind (rows.take r)))) := by
  induction rows generalizing r idx cur x with
  | nil => simp at hrow
  | cons q rows ih =>
    cases r with
    | zero =>
      obtain rfl : q = row := by simpa using hrow
      exact walk_cons_of_error ((walkRow_eq_error_iff ..).mpr ⟨hbit, hwords, hend, rfl⟩) rows
    | succ r =>
      rw [List.take_succ_cons, presentWidth_cons, ← Nat.add_assoc cur] at hstart hend ⊢
      rw [walk_cons_of_ok (walkRow_of_fits (Nat.le_of_add_right_le hstart) idx x),
        ih (by simpa using hrow) hstart hend, Nat.add_right_comm, Nat.add_assoc idx]

end

section
variable (c : Config) (ind : Word) (rd : Nat → Word)

@[simp] theorem walkedRecord_indicator (rows : List FieldRow) (cur : Nat) (x : ContextRec) :
    (walkedRecord c ind rd rows cur x).indicator = x.indicator := by
  induction rows generalizing cur x with
  | nil => rfl
  | cons r rows ih => exact ih ..

@[simp] theorem walkedRecord_unknownBits (rows : List FieldRow) (cur : Nat) (x : ContextRec) :
    (walkedRecord c ind rd rows cur x).unknownBits = x.unknownBits := by
  induction rows generalizing cur x with
  | nil => rfl
  | cons r rows ih => exact ih ..

theorem walkedRecord_get_of_notMem {rows : List FieldRow} {n : FieldName} (h : n ∉ rows.map (·.name)) (cur : Nat)
    (x : ContextRec) : (walkedRecord c ind rd rows cur x).get n = x.get n := by
  induction rows generalizing cur x with
  | nil => rfl
  | cons r rows ih =>
    simp only [List.map_cons, List.mem_cons, not_or] at h
    rw [walkedRecord, ih h.2, ContextRec.get_set_of_ne _ h.1]

/-- R244, R248: each member has its value from its own row's place. -/
theorem walkedRecord_get {rows : List FieldRow} (hnames : (rows.map (·.name)).Nodup) {r : Nat} {row : FieldRow}
    (hrow : rows[r]? = some row) (cur : Nat) (x : ContextRec) :
    (walkedRecord c ind rd rows cur x).get row.name =
      fieldAt c ind rd row (cur + presentWidth ind (rows.take r)) := by
  induction rows generalizing r cur x with
  | nil => simp at hrow
  | cons q rows ih =>
    obtain ⟨hq, hnames⟩ := List.nodup_cons.mp hnames
    cases r with
    | zero =>
      obtain rfl : q = row := by simpa using hrow
      rw [walkedRecord, walkedRecord_get_of_notMem c ind rd hq, ContextRec.get_set_self]
      rfl
    | succ r =>
      rw [walkedRecord, ih hnames (by simpa using hrow), List.take_succ_cons, presentWidth_cons, Nat.add_assoc]

end

/-! ### DECODE_CONTEXT (R244, R250 to R256) -/

theorem exec_decodeContext (S : BitVec 16) (s : State) :
    exec (.decodeContext S) s = .next (decodeContextOp Config.phpc S s) := rfl

/-- R244: what the walk makes of the packet in IBUF when its fields fit. -/
def decodedContext (c : Config) (s : State) : ContextRec :=
  let ind := memRead c s 5
  walkedRecord c ind (memRead c s) c.fieldTable 6
    { ContextRec.empty with indicator := ind, unknownBits := ind &&& ~~~ c.tableMask }

theorem decodedContext_indicator (c : Config) (s : State) : (decodedContext c s).indicator = memRead c s 5 :=
  walkedRecord_indicator ..

theorem decodedContext_unknownBits (s : State) :
    (decodedContext Config.phpc s).unknownBits = memRead Config.phpc s 5 &&& 0x3FFF := by
  have hmask : ~~~ Config.phpc.tableMask = 0x3FFF := by rw [tableMask_phpc]; decide
  rw [← hmask]
  exact walkedRecord_unknownBits ..

theorem decodedContext_get (s : State) {r : Nat} {row : FieldRow} (hrow : Config.defaultFieldTable[r]? = some row) :
    (decodedContext Config.phpc s).get row.name =
      fieldAt Config.phpc (memRead Config.phpc s 5) (memRead Config.phpc s) row
        (fieldPos (memRead Config.phpc s 5) r) :=
  walkedRecord_get _ _ _ (by decide : (Config.defaultFieldTable.map (·.name)).Nodup) hrow _ _

/-- R250 to R256: a member holds what its row decodes to, with the widths and fractional bits written out. -/
theorem holdsField_iff (x : ContextRec) (row : FieldRow) (w : Nat → Word) :
    HoldsField x row w ↔ x.get row.name = some (decodeValue Config.phpc row.dec w) := by
  obtain ⟨name, bit, dec⟩ := row
  cases dec <;> exact Iff.rfl

section
variable {c : Config} {S : BitVec 16} {s : State}

section
variable (hfixed : 6 ≤ S.toNat) (hsupplied : S.toNat ≤ s.nIn.toNat)
  (htype : headerType c (memRead c s 0) = c.typeContext)
include hfixed hsupplied htype

theorem decodeContextOp_of_walk_ok {x : ContextRec} {cur : Nat} (h : walkPacket c S s = .ok (x, cur)) :
    decodeContextOp c S s = complete
      { s with record := { s.record with kind := .context, pro := readPrologue c s, ctx := x }
               cur := BitVec.ofNat 17 cur } := by
  rw [decodeContextOp, entryChecksOf, (entryChecks_eq_none_iff ..).mpr ⟨hfixed, hsupplied, htype⟩, h]

theorem decodeContextOp_of_walk_error {e : ErrorOutcome} (h : walkPacket c S s = .error e) :
    decodeContextOp c S s = raiseError .decodeContext e s := by
  rw [decodeContextOp, entryChecksOf, (entryChecks_eq_none_iff ..).mpr ⟨hfixed, hsupplied, htype⟩, h]

end

theorem walkPacket_of_fits (h : fieldPos (memRead Config.phpc s 5) 18 ≤ S.toNat) :
    walkPacket Config.phpc S s = .ok (decodedContext Config.phpc s, fieldPos (memRead Config.phpc s 5) 18) :=
  walk_of_fits h 0 _

theorem walkPacket_of_truncated {r : Nat} {row : FieldRow} (hrow : Config.defaultFieldTable[r]? = some row)
    (hbit : (memRead Config.phpc s 5).getLsbD row.bit = true) (hwords : 0 < row.dec.width)
    (hstart : fieldPos (memRead Config.phpc s 5) r ≤ S.toNat)
    (hend : S.toNat < fieldPos (memRead Config.phpc s 5) r + row.dec.width) :
    walkPacket Config.phpc S s = .error (.truncatedField (BitVec.ofNat 6 r)
      (BitVec.ofNat 17 (fieldPos (memRead Config.phpc s 5) r))) := by
  have h := walk_of_truncated (rd := memRead Config.phpc s) hrow hbit hwords hstart hend 0
  rw [Nat.zero_add] at h
  exact h _

end

/-- Settles O28: the walk meets no bound, and gives each member its value from the row's own place. -/
theorem decodeContextExtractsPresentFields : Obligations.DecodeContextExtractsPresentFields := by
  refine ⟨rfl, rfl, rfl, ?_⟩
  intro s S w0 ind hw0 hind hfixed hsupplied htype hfits
  obtain rfl : w0 = memRead Config.phpc s 0 := hw0
  obtain rfl : ind = memRead Config.phpc s 5 := hind
  refine ⟨_, exec_decodeContext S s, ?_⟩
  rw [decodeContextOp_of_walk_ok hfixed hsupplied htype (walkPacket_of_fits hfits)]
  refine ⟨fun r row hrow => ⟨fun hbit => ?present, fun hbit => ?absent⟩, decodedContext_indicator ..,
    decodedContext_unknownBits .., Nat.mod_eq_of_lt (by omega), rfl, ?frame⟩
  case present => exact (holdsField_iff ..).mpr ((decodedContext_get s hrow).trans (if_pos hbit))
  case absent => exact (decodedContext_get s hrow).trans (if_neg (Bool.eq_false_iff.mp hbit))
  case frame =>
    rw [complete, statusOk_eq]

/-- R304: two numbers side by side in ERRINFO. -/
theorem ofNat_or_ofNat_shiftLeft {m n k a b : Nat} (hm : m ≤ 32) (hn : n ≤ 32) (ha : a < 2 ^ m) (hb : b < 2 ^ n)
    (hlow : a < 2 ^ k) :
    (BitVec.ofNat m a).setWidth 32 ||| (BitVec.ofNat n b).setWidth 32 <<< k = BitVec.ofNat 32 (a + 2 ^ k * b) := by
  have hshift : BitVec.ofNat 32 b <<< k = BitVec.ofNat 32 (2 ^ k * b) := by
    apply BitVec.eq_of_toNat_eq
    simp [Nat.shiftLeft_eq, Nat.mul_comm]
  rw [BitVec.setWidth_ofNat_of_le_of_lt hm ha, BitVec.setWidth_ofNat_of_le_of_lt hn hb, hshift, Nat.add_comm,
    Nat.two_pow_add_eq_or_of_lt hlow, BitVec.ofNat_or, BitVec.or_comm]

theorem errorInfo_truncatedField {r cur : Nat} (hr : r < 64) (hcur : cur < 2 ^ 17) :
    errorInfo (.truncatedField (BitVec.ofNat 6 r) (BitVec.ofNat 17 cur)) = BitVec.ofNat 32 (r + 1024 * cur) :=
  ofNat_or_ofNat_shiftLeft (k := 10) (by decide) (by decide) hr hcur (by omega)

theorem failedDecode_raiseError (e : ErrorOutcome) (s : State) :
    FailedDecode s (raiseError .decodeContext e s) (errorStatus e) (errorInfo e) (errorCursor e) := ⟨rfl, rfl⟩

theorem lt_eighteen_of_getElem? {r : Nat} {row : FieldRow} (h : Config.defaultFieldTable[r]? = some row) : r < 18 :=
  (List.getElem?_eq_some_iff.mp h).1

/-- Settles O29: the rows before fit, so that the walk comes to row `r` at its place and ends there. -/
theorem decodeContextStopsAtFirstTruncatedField : Obligations.DecodeContextStopsAtFirstTruncatedField := by
  intro s S ind r row hind hfixed hsupplied htype hrow hbit hwords hstart hend
  obtain rfl : ind = memRead Config.phpc s 5 := hind
  refine ⟨_, exec_decodeContext S s, ?_⟩
  rw [decodeContextOp_of_walk_error hfixed hsupplied htype (walkPacket_of_truncated hrow hbit hwords hstart hend)]
  have hr := lt_eighteen_of_getElem? hrow
  rw [← errorStatus_truncatedField, ← errorInfo_truncatedField (by omega) (by omega)]
  exact failedDecode_raiseError ..

/-! ### GEO_SKIP_WHEN_ABSENT (R245) -/

/-- R245: the configuration with the parameter's other value. -/
def geoSkipConfig : Config := { Config.phpc with geoSkipWhenAbsent := true }

/-- R245: a walk's result with the cursor moved over a slot of `n` words. -/
def passSlot (n : Nat) (p : ContextRec × Nat) : ContextRec × Nat := (p.1, p.2 + n)

theorem decodeValue_geoSkipConfig (dec : FieldDec) (w : Nat → Word) :
    decodeValue geoSkipConfig dec w = decodeValue Config.phpc dec w := by
  cases dec <;> rfl

section
variable (S idx : Nat) (rd : Nat → Word) (cur : Nat) (x : ContextRec)

/-- R245: in a row the parameter moves only the cursor, and only where the field is absent. -/
theorem walkRow_geoSkipConfig (row : FieldRow) (present : Bool) :
    walkRow geoSkipConfig S idx row present rd cur x =
      (walkRow Config.phpc S idx row present rd cur x).map
        (passSlot (if present then 0 else skipWords geoSkipConfig row)) := by
  unfold walkRow
  rw [decodeValue_geoSkipConfig, skipWords_phpc]
  cases present with
  | false => rfl
  | true => simp only [if_true]; split <;> rfl

/-- R245: where geolocation is the last row, the whole walk differs in the final cursor alone. -/
theorem walk_geoSkipConfig (ind : Word) {rows : List FieldRow} (hnames : ∀ r ∈ rows, r.name ≠ .geolocation) :
    walk geoSkipConfig S ind rd idx (rows ++ [Config.rowGeolocation]) cur x =
      (walk Config.phpc S ind rd idx (rows ++ [Config.rowGeolocation]) cur x).map
        (passSlot (if ind.getLsbD 14 then 0 else 11)) := by
  induction rows generalizing idx cur x with
  | nil =>
    have hrow := walkRow_geoSkipConfig S idx rd cur x Config.rowGeolocation (ind.getLsbD 14)
    cases h : walkRow Config.phpc S idx Config.rowGeolocation (ind.getLsbD 14) rd cur x with
    | error e =>
      rw [h] at hrow
      rw [List.nil_append, walk_cons_of_error h, walk_cons_of_error hrow]
      rfl
    | ok p =>
      rw [h] at hrow
      rw [List.nil_append, walk_cons_of_ok h, walk_cons_of_ok hrow]
      rfl
  | cons r rows ih =>
    have hskip : skipWords geoSkipConfig r = 0 := if_neg fun h => hnames r List.mem_cons_self h.1
    have hrow := walkRow_geoSkipConfig S idx rd cur x r (ind.getLsbD r.bit)
    rw [hskip, ite_self] at hrow
    cases h : walkRow Config.phpc S idx r (ind.getLsbD r.bit) rd cur x with
    | error e =>
      rw [h] at hrow
      rw [List.cons_append, walk_cons_of_error h, walk_cons_of_error hrow]
      rfl
    | ok p =>
      rw [h] at hrow
      rw [List.cons_append, walk_cons_of_ok h, walk_cons_of_ok hrow]
      exact ih _ _ _ fun q hq => hnames q (List.mem_cons_of_mem _ hq)

end

theorem walkPacket_geoSkipConfig (S : BitVec 16) (s : State) :
    walkPacket geoSkipConfig S s = (walkPacket Config.phpc S s).map
      (passSlot (if (memRead Config.phpc s 5).getLsbD 14 then 0 else 11)) :=
  walk_geoSkipConfig _ _ _ _ _ _ (by decide : ∀ r ∈ Config.defaultFieldTable.take 17, r.name ≠ .geolocation)

/-- Settles O30: geolocation is the last row of the table, so that nothing is read after the slot passed over. -/
theorem geoSkipMovesOnlyTheCursor : Obligations.GeoSkipMovesOnlyTheCursor := by
  intro s S
  have hskip := walkPacket_geoSkipConfig S s
  split
  next e h => exact hskip.trans (congrArg _ h)
  next x cur h =>
    refine (hskip.trans (congrArg _ h)).trans (congrArg (fun n => Except.ok (x, n)) ?_)
    show cur + (if (memRead Config.phpc s 5).getLsbD 14 = true then 0 else 11) = _
    rw [memRead, add_ite, Nat.add_zero]

end Sys2Proof.Machine
end

section
/-! PROOFS. Context packets (`spec/44_context_packet.md`): the conversions of a row (R250 to R256), ENCODE_CONTEXT
(R262), and the round trip (R263). -/

namespace Sys2Proof.Machine

/-! ### The conversions of a row (R149, R250 to R256) -/

theorem encOne_eq_ok_iff (o : Option (List Word)) (ws : List Word) : encOne o = .ok ws ↔ o = some ws := by
  cases o <;> simp [encOne]

theorem encOne_eq_error_iff (o : Option (List Word)) (sub : Nat) : encOne o = .error sub ↔ sub = 0 ∧ o = none := by
  cases o <;> simp [encOne, eq_comm]

theorem encFx32_eq_some_iff (x : F64) (f : Nat) (w : Word) :
    encFx32 Config.phpc x f = some w ↔
      ∃ i, toFixed .binary64 .nearestEven x f 32 = some i ∧ BitVec.ofInt 32 i = w :=
  Option.map_eq_some_iff

theorem encFx32_eq_none_iff (x : F64) (f : Nat) :
    encFx32 Config.phpc x f = none ↔ toFixed .binary64 .nearestEven x f 32 = none := Option.map_eq_none_iff

section
variable (sub : Nat) (x : F64) (f : Nat) (qs : List (F64 × Nat))

theorem encQuantities_cons_eq_ok_iff (c : Config) (ws : List Word) :
    encQuantities c sub ((x, f) :: qs) = .ok ws ↔
      ∃ w rest, encFx32 c x f = some w ∧ encQuantities c (sub + 1) qs = .ok rest ∧ ws = w :: rest := by
  rw [encQuantities]
  cases encFx32 c x f with
  | none => simp
  | some w => cases encQuantities c (sub + 1) qs <;> simp [eq_comm]

theorem encQuantities_cons_eq_error_iff (c : Config) (e : Nat) :
    encQuantities c sub ((x, f) :: qs) = .error e ↔
      (encFx32 c x f = none ∧ e = sub) ∨
        ((encFx32 c x f).isSome = true ∧ encQuantities c (sub + 1) qs = .error e) := by
  rw [encQuantities]
  cases encFx32 c x f with
  | none => simp [eq_comm]
  | some w => cases encQuantities c (sub + 1) qs <;> simp

end

/-- R256: the words of the conversions are the bits of their integers. -/
theorem encQuantities_eq_ok_iff (sub : Nat) (qs : List (F64 × Nat)) (ws : List Word) :
    encQuantities Config.phpc sub qs = .ok ws ↔
      ∃ is : List Int, List.Forall₂ (fun p i => toFixed .binary64 .nearestEven p.1 p.2 32 = some i) qs is ∧
        ws = is.map (BitVec.ofInt 32) := by
  induction qs generalizing sub ws with
  | nil => simp [encQuantities, eq_comm]
  | cons q qs ih =>
    obtain ⟨x, f⟩ := q
    simp only [encQuantities_cons_eq_ok_iff, encFx32_eq_some_iff, ih, List.forall₂_cons_left_iff]
    constructor
    · rintro ⟨_, _, ⟨i, hi, rfl⟩, ⟨is, his, rfl⟩, rfl⟩
      exact ⟨i :: is, ⟨i, is, hi, his, rfl⟩, rfl⟩
    · rintro ⟨_, ⟨i, is, hi, his, rfl⟩, rfl⟩
      exact ⟨_, _, ⟨i, hi, rfl⟩, ⟨is, his, rfl⟩, rfl⟩

/-- R256: conversion number `j` is the first that overflows. -/
def FirstOverflow (qs : List (F64 × Nat)) (j : Nat) : Prop :=
  (∃ v f, qs[j]? = some (v, f) ∧ toFixed .binary64 .nearestEven v f 32 = none) ∧
    ∀ k v f, k < j → qs[k]? = some (v, f) → toFixed .binary64 .nearestEven v f 32 ≠ none

section
variable (x : F64) (f : Nat) (qs : List (F64 × Nat))

theorem firstOverflow_cons_zero :
    FirstOverflow ((x, f) :: qs) 0 ↔ toFixed .binary64 .nearestEven x f 32 = none := by
  simp [FirstOverflow]

theorem firstOverflow_cons_succ (j : Nat) :
    FirstOverflow ((x, f) :: qs) (j + 1) ↔
      toFixed .binary64 .nearestEven x f 32 ≠ none ∧ FirstOverflow qs j := by
  simp only [FirstOverflow, List.getElem?_cons_succ, and_left_comm (a := _ ≠ _)]
  refine and_congr_right fun _ => ⟨fun h => ⟨h 0 x f j.succ_pos rfl, fun k v g hk => h (k + 1) v g (by omega)⟩,
    fun ⟨hhead, htail⟩ k v g hk hget => ?_⟩
  cases k with
  | zero => cases hget; exact hhead
  | succ k => exact htail k v g (by omega) hget

end

/-- R256: an error of the conversions is the number of the first that overflows. -/
theorem encQuantities_eq_error_iff (sub : Nat) (qs : List (F64 × Nat)) (e : Nat) :
    encQuantities Config.phpc sub qs = .error e ↔ ∃ j, e = sub + j ∧ FirstOverflow qs j := by
  induction qs generalizing sub with
  | nil => simp [encQuantities, FirstOverflow]
  | cons q qs ih =>
    rw [encQuantities_cons_eq_error_iff, ih, Option.isSome_iff_ne_none, ne_eq, encFx32_eq_none_iff]
    constructor
    · rintro (⟨hnone, rfl⟩ | ⟨hsome, j, rfl, hj⟩)
      · exact ⟨0, rfl, (firstOverflow_cons_zero ..).mpr hnone⟩
      · exact ⟨j + 1, by omega, (firstOverflow_cons_succ ..).mpr ⟨hsome, hj⟩⟩
    · rintro ⟨j, rfl, hj⟩
      cases j with
      | zero => exact .inl ⟨(firstOverflow_cons_zero ..).mp hj, rfl⟩
      | succ j =>
        obtain ⟨hsome, hj⟩ := (firstOverflow_cons_succ ..).mp hj
        exact .inr ⟨hsome, j, by omega, hj⟩

theorem encGeo_eq_ok_iff (G : Geo) (ws : List Word) :
    encGeo Config.phpc G = .ok ws ↔ FieldWords .geo (.geo G) ws := by
  have hconversions := encQuantities_eq_ok_iff 0 (geoConversions G)
  rw [encGeo, show geoQuantities Config.phpc G = geoConversions G from rfl]
  cases h : encQuantities Config.phpc 0 (geoConversions G) with
  | error sub =>
    refine ⟨nofun, ?_⟩
    rintro ⟨is, his, -⟩
    exact nomatch h.symm.trans ((hconversions _).mpr ⟨is, his, rfl⟩)
  | ok rest =>
    constructor
    · rintro ⟨⟩
      obtain ⟨is, his, rfl⟩ := (hconversions rest).mp h
      exact ⟨is, his, rfl⟩
    · rintro ⟨is, his, rfl⟩
      cases h.symm.trans ((hconversions _).mpr ⟨is, his, rfl⟩)
      rfl

theorem encGeo_eq_error_iff (G : Geo) (sub : Nat) :
    encGeo Config.phpc G = .error sub ↔ FirstOverflow (geoConversions G) sub := by
  have hconversions := encQuantities_eq_error_iff 0 (geoConversions G) sub
  simp only [Nat.zero_add, exists_eq_left'] at hconversions
  rw [← hconversions, encGeo, show geoQuantities Config.phpc G = geoConversions G from rfl]
  cases encQuantities Config.phpc 0 (geoConversions G) <;> simp

/-- R252, R253, R256, R262: a value of a row does not convert; `sub` is the number R304 gives the conversion. -/
def ValueOverflows (sub : Nat) : FieldDec → FieldValue → Prop
  | .freq, .float x => sub = 0 ∧ toFixed .binary64 .nearestEven x 20 64 = none
  | .fx16 frac, .float x => sub = 0 ∧ toFixed .binary64 .nearestEven x frac 16 = none
  | .geo, .geo G => FirstOverflow (geoConversions G) sub
  | _, _ => False

/-- R262: `enc` of a row raises exactly where a conversion overflows. -/
theorem encodeValue_eq_error_iff (dec : FieldDec) (v : FieldValue) (sub : Nat) :
    encodeValue Config.phpc dec v = .error sub ↔ ValueOverflows sub dec v := by
  cases dec
  case freq =>
    cases v with
    | float x =>
      rw [encodeValue, encOne_eq_error_iff, Option.map_eq_none_iff, encFreq, Option.map_eq_none_iff]
      rfl
    | _ => exact ⟨nofun, nofun⟩
  case fx16 frac =>
    cases v with
    | float x =>
      rw [encodeValue, encOne_eq_error_iff, Option.map_eq_none_iff, encFx16, Option.map_eq_none_iff]
      rfl
    | _ => exact ⟨nofun, nofun⟩
  case geo =>
    cases v with
    | geo G => exact encGeo_eq_error_iff G sub
    | _ => exact ⟨nofun, nofun⟩
  case none | raw1 | raw2 | devid => cases v <;> exact ⟨nofun, nofun⟩

/-- R250 to R256: what `enc` of a row gives are the words of the row's field, on a value of the row's type. -/
theorem encodeValue_eq_ok_iff {dec : FieldDec} {v : FieldValue} (hfits : dec.fits v = true) (ws : List Word) :
    encodeValue Config.phpc dec v = .ok ws ↔ FieldWords dec v ws := by
  cases dec
  case freq =>
    cases v with
    | float x =>
      rw [encodeValue, encOne_eq_ok_iff, encFreq, Option.map_map, Option.map_eq_some_iff]
      exact exists_congr fun i => and_congr_right fun _ => eq_comm
    | _ => nomatch hfits
  case fx16 frac =>
    cases v with
    | float x =>
      rw [encodeValue, encOne_eq_ok_iff, encFx16, Option.map_map, Option.map_eq_some_iff]
      refine exists_congr fun i => and_congr_right fun _ => ?_
      have hhalf : (BitVec.ofInt 16 i).setWidth 32 = (0 : BitVec 16) ++ BitVec.ofInt 16 i :=
        BitVec.setWidth_eq_append (by decide)
      rw [← hhalf]
      exact eq_comm
    | _ => nomatch hfits
  case geo =>
    cases v with
    | geo G => exact encGeo_eq_ok_iff G ws
    | _ => nomatch hfits
  case none | raw1 | raw2 | devid =>
    cases v <;> first
      | exact absurd hfits Bool.false_ne_true
      | exact ⟨fun h => (Except.ok.inj h).symm, fun h => congrArg _ (Eq.symm h)⟩

/-! ### A row of the encoder (R262) -/

theorem ContextRec.member_eq_some_iff (x : ContextRec) (r : FieldRow) (v : FieldValue) :
    x.member r = some v ↔ x.get r.name = some v ∧ r.dec.fits v = true := Option.filter_eq_some_iff

/-- A value that does not convert is a value of the row's type. -/
theorem ValueOverflows.fits {sub : Nat} {dec : FieldDec} {v : FieldValue} (h : ValueOverflows sub dec v) :
    dec.fits v = true := by
  unfold ValueOverflows at h
  split at h
  · rfl
  · rfl
  · rfl
  · exact h.elim

theorem rowOverflows_iff (x : ContextRec) (row : FieldRow) (sub : Nat) :
    RowOverflows x row sub ↔ ∃ v, x.get row.name = some v ∧ ValueOverflows sub row.dec v := by
  obtain ⟨name, bit, dec⟩ := row
  cases dec
  case freq | fx16 =>
    constructor
    · rintro ⟨hsub, y, hget, hnone⟩
      exact ⟨.float y, hget, hsub, hnone⟩
    · rintro ⟨v, hget, hover⟩
      cases v with
      | float y => exact ⟨hover.1, y, hget, hover.2⟩
      | _ => exact hover.elim
  case geo =>
    constructor
    · rintro ⟨G, hget, hover⟩
      exact ⟨.geo G, hget, hover⟩
    · rintro ⟨v, hget, hover⟩
      cases v with
      | geo G => exact ⟨G, hget, hover⟩
      | _ => exact hover.elim
  case none | raw1 | raw2 | devid =>
    refine ⟨False.elim, ?_⟩
    rintro ⟨v, -, hover⟩
    cases v <;> exact hover

section
variable (x : ContextRec) (row : FieldRow)

/-- R262: a row of the encoder fails exactly where its present member does not convert. -/
theorem encodeRow_eq_error_iff (sub : Nat) : encodeRow Config.phpc row x = .error sub ↔ RowOverflows x row sub := by
  rw [rowOverflows_iff, encodeRow]
  constructor
  · intro h
    split at h
    · cases h
    next v hv =>
      exact ⟨v, ((x.member_eq_some_iff row v).mp hv).1, (encodeValue_eq_error_iff ..).mp h⟩
  · rintro ⟨v, hget, hover⟩
    rw [(x.member_eq_some_iff row v).mpr ⟨hget, hover.fits⟩]
    exact (encodeValue_eq_error_iff ..).mpr hover

/-- R262: what a row adds to the body: nothing when it is absent, else the words of its field. -/
theorem encodeRow_eq_ok_iff (ws : List Word) :
    encodeRow Config.phpc row x = .ok ws ↔
      (x.member row = none ∧ ws = []) ∨ ∃ v, x.member row = some v ∧ FieldWords row.dec v ws := by
  rw [encodeRow]
  cases h : x.member row with
  | none => simp [eq_comm]
  | some v =>
    have hfits := ((x.member_eq_some_iff row v).mp h).2
    simp [encodeValue_eq_ok_iff hfits]

theorem exists_encodeRow_ok_iff :
    (∃ ws, encodeRow Config.phpc row x = .ok ws) ↔ ∀ sub, ¬ RowOverflows x row sub := by
  simp only [← encodeRow_eq_error_iff]
  cases encodeRow Config.phpc row x <;> simp

end

theorem FieldWords.length_eq {dec : FieldDec} {v : FieldValue} {ws : List Word} (h : FieldWords dec v ws) :
    ws.length = dec.width := by
  unfold FieldWords at h
  split at h
  next => exact congrArg List.length h
  next => exact congrArg List.length h
  next => exact congrArg List.length h
  next => exact congrArg List.length h
  next => obtain ⟨i, -, rfl⟩ := h; rfl
  next => obtain ⟨i, -, rfl⟩ := h; rfl
  next G =>
    obtain ⟨is, his, rfl⟩ := h
    simp [← his.length_eq, geoConversions, FieldDec.width, Config.geoWords]
  next => exact h.elim

/-- R248, R262: a row adds as many words as the walk will pass over. -/
theorem length_of_encodeRow {x : ContextRec} {row : FieldRow} {ind : Word}
    (hind : ind.getLsbD row.bit = x.present row) {ws : List Word} (h : encodeRow Config.phpc row x = .ok ws) :
    ws.length = rowWidth ind row := by
  rw [ContextRec.present] at hind
  obtain ⟨habsent, rfl⟩ | ⟨v, hv, hwords⟩ := (encodeRow_eq_ok_iff ..).mp h
  · rw [habsent] at hind
    exact (rowWidth_of_absent hind).symm
  · rw [hv] at hind
    rw [rowWidth_of_present hind, hwords.length_eq]

/-! ### The body of the packet (R262) -/

section
variable {c : Config} {x : ContextRec} {rows : List FieldRow}

theorem encodeRows_cons_of_ok {r : FieldRow} {ws : List Word} (h : encodeRow c r x = .ok ws) (idx : Nat) :
    encodeRows c x idx (r :: rows) = (encodeRows c x (idx + 1) rows).map (ws ++ ·) := by
  rw [encodeRows, h]
  cases encodeRows c x (idx + 1) rows <;> rfl

theorem encodeRows_cons_of_error {r : FieldRow} {sub : Nat} (h : encodeRow c r x = .error sub) (idx : Nat) :
    encodeRows c x idx (r :: rows) = .error (.arithmeticOverflow (BitVec.ofNat 6 idx) (BitVec.ofNat 4 sub)) := by
  rw [encodeRows, h]

/-- R262: a row that fails ends the encode, when no row before it does. -/
theorem encodeRows_of_overflow {r sub : Nat} {row : FieldRow} (hrow : rows[r]? = some row)
    (hover : encodeRow c row x = .error sub)
    (hbefore : ∀ q row', q < r → rows[q]? = some row' → ∃ ws, encodeRow c row' x = .ok ws) (idx : Nat) :
    encodeRows c x idx rows = .error (.arithmeticOverflow (BitVec.ofNat 6 (idx + r)) (BitVec.ofNat 4 sub)) := by
  induction rows generalizing r idx with
  | nil => simp at hrow
  | cons q rows ih =>
    cases r with
    | zero =>
      obtain rfl : q = row := by simpa using hrow
      exact encodeRows_cons_of_error hover idx
    | succ r =>
      obtain ⟨ws, hws⟩ := hbefore 0 q (Nat.succ_pos r) rfl
      have hrest := ih (by simpa using hrow) (fun k row' hk => hbefore (k + 1) row' (by omega)) (idx + 1)
      rw [encodeRows_cons_of_ok hws, hrest, Nat.add_right_comm, Nat.add_assoc idx]
      rfl

theorem exists_encodeRows_ok_iff (idx : Nat) :
    (∃ body, encodeRows c x idx rows = .ok body) ↔ ∀ r ∈ rows, ∃ ws, encodeRow c r x = .ok ws := by
  induction rows generalizing idx with
  | nil => simp [encodeRows]
  | cons r rows ih =>
    rw [List.forall_mem_cons, ← ih (idx + 1)]
    cases h : encodeRow c r x with
    | error sub => simp [encodeRows_cons_of_error h]
    | ok ws =>
      rw [encodeRows_cons_of_ok h]
      cases encodeRows c x (idx + 1) rows <;> simp [Except.map]

end

/-- R262: a row's words stand in the body at the row's place in table order, and the body ends with the last row. -/
theorem body_spec {x : ContextRec} {ind : Word} {rows : List FieldRow}
    (hind : ∀ r ∈ rows, ind.getLsbD r.bit = x.present r) {idx : Nat} {body : List Word}
    (h : encodeRows Config.phpc x idx rows = .ok body) :
    body.length = presentWidth ind rows ∧
      ∀ r row, rows[r]? = some row → ∃ ws, encodeRow Config.phpc row x = .ok ws ∧
        ∀ k w, ws[k]? = some w → body[presentWidth ind (rows.take r) + k]? = some w := by
  induction rows generalizing idx body with
  | nil => cases h; simp
  | cons q rows ih =>
    rw [List.forall_mem_cons] at hind
    obtain ⟨hq, hind⟩ := hind
    cases hws : encodeRow Config.phpc q x with
    | error sub => exact nomatch (encodeRows_cons_of_error hws idx).symm.trans h
    | ok ws =>
      rw [encodeRows_cons_of_ok hws] at h
      cases hrest : encodeRows Config.phpc x (idx + 1) rows with
      | error e => exact nomatch hrest ▸ h
      | ok rest =>
        rw [hrest] at h
        obtain rfl : ws ++ rest = body := Except.ok.inj h
        have hlen := length_of_encodeRow hq hws
        obtain ⟨hrestlen, hplaces⟩ := ih hind hrest
        refine ⟨by rw [List.length_append, hlen, hrestlen, presentWidth_cons], fun r row hrow => ?_⟩
        cases r with
        | zero =>
          obtain rfl : q = row := by simpa using hrow
          refine ⟨ws, hws, fun k w hk => ?_⟩
          rw [List.take_zero, presentWidth_nil, Nat.zero_add]
          exact List.getElem?_append_left (List.getElem?_eq_some_iff.mp hk).1 ▸ hk
        | succ r =>
          obtain ⟨us, hus, hplace⟩ := hplaces r row (by simpa using hrow)
          refine ⟨us, hus, fun k w hk => ?_⟩
          rw [List.take_succ_cons, presentWidth_cons, Nat.add_assoc, ← hlen, List.getElem?_append_right (by omega),
            Nat.add_sub_cancel_left]
          exact hplace k w hk

/-! ### ENCODE_CONTEXT (R262) -/

theorem exec_encodeContext (s : State) : exec .encodeContext s = .next (encodeContextOp Config.phpc s) := rfl

section
variable {c : Config} {s : State}

theorem encodeContextOp_of_error {e : ErrorOutcome} (h : encodeRows c s.record.ctx 0 c.fieldTable = .error e) :
    encodeContextOp c s = raiseError .encodeContext e s := by
  rw [encodeContextOp, h]

section
variable {body : List Word} (h : encodeRows c s.record.ctx 0 c.fieldTable = .ok body)
  (hfits : 6 + body.length ≤ 65535)
include h hfits

theorem encodeContextOp_of_ok :
    encodeContextOp c s = complete { memWrite c s 0 (contextPacketWords c s.record body) with
      nOut := BitVec.ofNat 17 (6 + body.length) } := by
  rw [encodeContextOp, h]
  exact if_neg (not_lt.mpr hfits)

theorem encodeContextOp_nOut : (encodeContextOp c s).nOut.toNat = 6 + body.length := by
  rw [encodeContextOp_of_ok h hfits]
  exact Nat.mod_eq_of_lt (by omega)

/-- ENCODE_CONTEXT puts the words of its packet at the start of OBUF, in raw form. -/
theorem encodeContextOp_obufAt {k : Nat} {w : Word} (hw : (contextPacketWords c s.record body)[k]? = some w) :
    (encodeContextOp c s).obufAt k = normWord c w := by
  rw [encodeContextOp_of_ok h hfits]
  refine Memory.read_writeFrom_zero _ s.obuf (?_ : ((contextPacketWords c s.record body).map (normWord c))[k]? = _)
  rw [List.getElem?_map, hw, Option.map_some]

theorem encodeContextOp_obufAt_of_ge {a : Nat} (ha : 6 + body.length ≤ a) :
    (encodeContextOp c s).obufAt a = s.obufAt a := by
  rw [encodeContextOp_of_ok h hfits]
  exact Memory.read_writeFrom_of_ge _ _ ((contextPacketWords c s.record body).map _) (by simpa using ha)

end

end

theorem getElem?_contextPacketWords_body (c : Config) (r : Record) (body : List Word) (k : Nat) :
    (contextPacketWords c r body)[6 + k]? = body[k]? := by
  rw [contextPacketWords, List.getElem?_append_right (by simp; omega), length_prologueWords,
    show 6 + k - 5 = k + 1 by omega, List.getElem?_cons_succ]

/-- Settles O33: the words of the packet stand in OBUF one after another, those of a row at its place in table order. -/
theorem encodeContextBuildsPacket : Obligations.EncodeContextBuildsPacket := by
  intro s ind hind hconverts
  obtain ⟨body, hbody⟩ := (exists_encodeRows_ok_iff (c := Config.phpc) 0).mpr fun row hrow =>
    (exists_encodeRow_ok_iff s.record.ctx row).mpr (hconverts row hrow)
  have hbits : ∀ row ∈ Config.defaultFieldTable, ind.getLsbD row.bit = s.record.ctx.present row := fun row hrow =>
    hind ▸ getLsbD_packIndicatorWord_bit _ hrow
  obtain ⟨hlen, hplaces⟩ := body_spec hbits hbody
  have hsize : 6 + body.length = fieldPos ind 18 := by rw [hlen, fieldPos_eighteen]
  have hmax := fieldPos_eighteen_le ind
  have hok : 6 + body.length ≤ 65535 := by omega
  have hword := fun k w => encodeContextOp_obufAt hbody hok (k := k) (w := w)
  refine ⟨_, exec_encodeContext s, (encodeContextOp_nOut hbody hok).trans hsize, hword 0 _ ?header, hword 1 _ rfl,
    hword 2 _ rfl, hword 3 _ rfl, hword 4 _ rfl, hword 5 _ ?indicator,
    fun r row hrow => ⟨hbits row (List.mem_of_getElem? hrow), fun v hv => ?field⟩,
    fun a ha => encodeContextOp_obufAt_of_ge hbody hok (hsize ▸ ha), ?frame⟩
  case header =>
    rw [← packHeaderWord_eq_append, ← hsize]
    rfl
  case indicator =>
    rw [hind]
    rfl
  case frame =>
    rw [encodeContextOp_of_ok hbody hok, ← statusOk_eq]
    rfl
  case field =>
    obtain ⟨ws, hws, hplace⟩ := hplaces r row hrow
    obtain ⟨habsent, -⟩ | ⟨u, hu, hwords⟩ := (encodeRow_eq_ok_iff ..).mp hws
    · exact nomatch habsent.symm.trans hv
    · obtain rfl : u = v := Option.some.inj (hu.symm.trans hv)
      refine ⟨ws, hwords, hwords.length_eq, fun k w hk => hword _ w ?_⟩
      rw [fieldPos, Nat.add_assoc, getElem?_contextPacketWords_body]
      exact hplace k w hk

/-- R304: `sub` is 0, or the number of one of the seven conversions. -/
theorem lt_seven_of_rowOverflows {x : ContextRec} {row : FieldRow} {sub : Nat} (h : RowOverflows x row sub) :
    sub < 7 := by
  obtain ⟨v, -, hover⟩ := (rowOverflows_iff ..).mp h
  unfold ValueOverflows at hover
  split at hover
  · omega
  · omega
  · obtain ⟨⟨v, f, hget, -⟩, -⟩ := hover
    exact (List.getElem?_eq_some_iff.mp hget).1
  · exact hover.elim

theorem errorInfo_arithmeticOverflow {r sub : Nat} (hr : r < 64) (hsub : sub < 16) :
    errorInfo (.arithmeticOverflow (BitVec.ofNat 6 r) (BitVec.ofNat 4 sub)) = BitVec.ofNat 32 (r + 64 * sub) :=
  ofNat_or_ofNat_shiftLeft (k := 6) (by decide) (by decide) hr hsub hr

theorem failedEncode_raiseError (e : ErrorOutcome) (s : State) :
    FailedEncode s (raiseError .encodeContext e s) (errorStatus e) (errorInfo e) := rfl

/-- Settles O34: the rows before convert, so that the encoder comes to row `r` and ends there. -/
theorem encodeContextStopsAtFirstOverflow : Obligations.EncodeContextStopsAtFirstOverflow := by
  intro s r sub row hrow hover hbefore
  have hr := lt_eighteen_of_getElem? hrow
  have hsub := lt_seven_of_rowOverflows hover
  have herror := encodeRows_of_overflow (c := Config.phpc) hrow ((encodeRow_eq_error_iff ..).mpr hover)
    (fun q row' hq hrow' => (exists_encodeRow_ok_iff ..).mpr (hbefore q row' hq hrow')) 0
  rw [Nat.zero_add] at herror
  refine ⟨_, exec_encodeContext s, ?_⟩
  rw [encodeContextOp_of_error herror, ← errorStatus_arithmeticOverflow,
    ← errorInfo_arithmeticOverflow (by omega) (by omega)]
  exact failedEncode_raiseError ..

/-! ### The round trip (R263) -/

/-- R141, R149: the bits of an integer that a Float converts to are those of an integer in range. -/
theorem toInt_ofInt_of_toFixed {fmt : FloatFmt} {mode : FxRound} {x : F64} {frac W : Nat} {i : Int} (hpos : 0 < W)
    (h : toFixed fmt mode x frac W = some i) : (BitVec.ofInt W i).toInt = i := by
  obtain ⟨-, -, hrange⟩ := (toFixed_eq_some_iff ..).mp h
  obtain ⟨hlow, hhigh⟩ := (inSignedRange_iff ..).mp hrange
  exact BitVec.toInt_ofInt_eq_self hpos hlow (by omega)

/-- R149: a 32-bit field written as the integer nearest to a Float reads back as that integer's value. -/
theorem quantized_decFx32 {x : F64} {f : Nat} {i : Int} (h : toFixed .binary64 .nearestEven x f 32 = some i) {w : Word}
    (hw : w = BitVec.ofInt 32 i) : Quantized f 32 x (decFx32 Config.phpc w f) := by
  refine ⟨i, h, ?_⟩
  rw [decFx32, hw, toInt_ofInt_of_toFixed (by decide) h]
  rfl

/-- R256: the seven quantities of the block, each at its own word. -/
theorem quantized_geoConversion {G : Geo} {is : List Int}
    (his : List.Forall₂ (fun p i => toFixed .binary64 .nearestEven p.1 p.2 32 = some i) (geoConversions G) is)
    {rd : Nat → Word} (hrd : ∀ j i, is[j]? = some i → rd (4 + j) = BitVec.ofInt 32 i) (j : Nat) {v : F64}
    {f : Nat} (hj : (geoConversions G)[j]? = some (v, f)) : Quantized f 32 v (decFx32 Config.phpc (rd (4 + j)) f) := by
  obtain ⟨hlen, hconverts⟩ := List.forall₂_iff_get.mp his
  obtain ⟨hlt, hval⟩ := List.getElem?_eq_some_iff.mp hj
  have hi := hconverts j hlt (hlen ▸ hlt)
  rw [List.get_eq_getElem, hval] at hi
  exact quantized_decFx32 hi (hrd j _ (List.getElem?_eq_getElem _))

/-- R263: what the words of a field decode to is the field's value to the resolution of the wire. -/
theorem sameValue_decodeValue {dec : FieldDec} {v : FieldValue} {ws : List Word} (h : FieldWords dec v ws)
    {rd : Nat → Word} (hrd : ∀ k w, ws[k]? = some w → rd k = w) :
    SameValue dec v (decodeValue Config.phpc dec rd) := by
  unfold FieldWords at h
  split at h
  next => rfl
  next w => exact congrArg FieldValue.word (hrd 0 w (h ▸ rfl))
  next w0 w1 => exact congrArg₂ FieldValue.pair (hrd 0 w0 (h ▸ rfl)) (hrd 1 w1 (h ▸ rfl))
  next w0 w1 => exact congrArg₂ FieldValue.pair (hrd 0 w0 (h ▸ rfl)) (hrd 1 w1 (h ▸ rfl))
  next x =>
    obtain ⟨i, hi, rfl⟩ := h
    have hword : rd 0 ++ rd 1 = BitVec.ofInt 64 i := by
      rw [hrd 0 _ rfl, hrd 1 _ rfl]
      exact highWord_append_lowWord _
    refine ⟨i, hi, ?_⟩
    rw [decFreq, hword, toInt_ofInt_of_toFixed (by decide) hi]
    rfl
  next frac x =>
    obtain ⟨i, hi, rfl⟩ := h
    have hword : (rd 0).extractLsb' 0 16 = BitVec.ofInt 16 i := by
      rw [hrd 0 _ rfl]
      exact BitVec.extractLsb'_append_eq_right
    refine ⟨i, hi, ?_⟩
    rw [decFx16, hword, toInt_ofInt_of_toFixed (by decide) hi]
    rfl
  next G =>
    obtain ⟨is, his, rfl⟩ := h
    have hfrac : rd 2 ++ rd 3 = G.tsFrac := by
      rw [hrd 2 _ rfl, hrd 3 _ rfl]
      exact highWord_append_lowWord _
    have hquantity := quantized_geoConversion his (rd := rd) fun j i hi => hrd (4 + j) _ (by
      rw [Nat.add_comm]
      simp [hi])
    exact ⟨hrd 0 _ rfl, hrd 1 _ rfl, hfrac, hquantity 0 rfl, hquantity 1 rfl, hquantity 2 rfl, hquantity 3 rfl,
      hquantity 4 rfl, hquantity 5 rfl, hquantity 6 rfl⟩
  next => exact h.elim

/-- R263: presence and value of a row's member survive the trip, when the row's words do. -/
theorem sameField_of_holdsField {x y : ContextRec} {row : FieldRow} {v : FieldValue} {ws : List Word}
    (hv : x.member row = some v) (hwords : FieldWords row.dec v ws) {rd : Nat → Word} (hy : HoldsField y row rd)
    (hrd : ∀ k w, ws[k]? = some w → rd k = w) : SameField x y row := by
  have hget := (holdsField_iff ..).mp hy
  rw [SameField, hv, (y.member_eq_some_iff row _).mpr ⟨hget, fits_decodeValue ..⟩]
  exact .some (sameValue_decodeValue hwords hrd)

theorem sameField_of_absent {x y : ContextRec} {row : FieldRow} (hx : x.member row = none)
    (hy : y.get row.name = none) : SameField x y row := by
  rw [SameField, hx, ContextRec.member, hy]
  exact .none

theorem statusCode_errorStatus_ne_zero (e : ErrorOutcome) : statusCode (errorStatus e) ≠ 0 := by
  cases e <;> simp [statusCode]

/-- R262: an encode that ends OK had nothing that overflows. -/
theorem not_rowOverflows_of_encode_ok {s t : State} (ht : exec .encodeContext s = .next t)
    (hcode : statusCode t.status = 0) :
    ∀ row ∈ Config.defaultFieldTable, ∀ sub, ¬ RowOverflows s.record.ctx row sub := by
  rw [exec_encodeContext] at ht
  cases ht
  intro row hrow
  rw [← exists_encodeRow_ok_iff]
  refine (exists_encodeRows_ok_iff 0).mp ?_ row hrow
  cases hbody : encodeRows Config.phpc s.record.ctx 0 Config.defaultFieldTable with
  | ok body => exact ⟨body, rfl⟩
  | error e =>
    rw [encodeContextOp_of_error hbody] at hcode
    exact absurd hcode (statusCode_errorStatus_ne_zero e)

/-- Settles O35: the transport copies each raw word, which the decoder's normalizer turns back into the word that the
encoder built, and both find a row's words at the same place. -/
theorem contextPacketRoundTrip : Obligations.ContextPacketRoundTrip := by
  intro s t s' ht hcode hcount hcopy
  obtain ⟨_, ht', hsize, h0, h1, h2, h3, h4, h5, hrows, -⟩ :=
    encodeContextBuildsPacket s _ rfl (not_rowOverflows_of_encode_ok ht hcode)
  obtain rfl := Host.Outcome.next.inj (ht.symm.trans ht')
  have hindicator := packIndicatorWord_and_unknown s.record.ctx
  generalize packIndicatorWord Config.phpc s.record.ctx = ind at *
  have hmin : 6 ≤ fieldPos ind 18 := Nat.le_add_right ..
  have hmax := fieldPos_eighteen_le ind
  have hS : (t.nOut.setWidth 16).toNat = fieldPos ind 18 := by
    rw [BitVec.toNat_setWidth, hsize]
    omega
  have hread : ∀ k w, k < fieldPos ind 18 → t.obufAt k = normWord Config.phpc w →
      normWord Config.phpc (s'.ibufAt k) = w := by
    intro k w hk hw
    rw [hcopy k (hsize ▸ hk), hw]
    exact normWord_involutive Config.phpc w
  obtain ⟨t', hexec, hfields, hind', hunknown, hcur, hpro, hframe⟩ :=
    decodeContextExtractsPresentFields.2.2.2 s' (t.nOut.setWidth 16) _ ind (hread 0 _ (by omega) h0).symm
      (hread 5 _ (by omega) h5).symm (by omega) (by rw [hcount, hS, hsize]) (headerType_append ..) (by omega)
  refine ⟨t', hexec, by rw [hframe], by rw [hframe], fun row hrow => ?fields, hind', hunknown.trans hindicator, ?pro,
    BitVec.eq_of_toNat_eq (hcur.trans hsize.symm)⟩
  case fields =>
    obtain ⟨r, hr⟩ := List.mem_iff_getElem?.mp hrow
    obtain ⟨hpresent, habsent⟩ := hfields r row hr
    obtain ⟨hbit, hwords⟩ := hrows r row hr
    cases hv : s.record.ctx.member row with
    | none => exact sameField_of_absent hv (habsent (by rw [hbit, hv]; rfl))
    | some v =>
      have hset : ind.getLsbD row.bit = true := by rw [hbit, hv]; rfl
      obtain ⟨ws, hfield, hlen, hplace⟩ := hwords v hv
      refine sameField_of_holdsField hv hfield (hpresent hset) fun k w hk => hread _ w ?_ (hplace k w hk)
      have hlt := (List.getElem?_eq_some_iff.mp hk).1
      have hend := fieldPos_add_rowWidth_le ind hr
      rw [rowWidth_of_present hset] at hend
      omega
  case pro =>
    rw [hpro, hread 1 _ (by omega) h1, hread 2 _ (by omega) h2, hread 3 _ (by omega) h3, hread 4 _ (by omega) h4,
      show BitVec.ofNat 16 (fieldPos ind 18) = t.nOut.setWidth 16 from BitVec.eq_of_toNat_eq (by simp [hS]; omega)]
    exact extractPrologue_append ..

end Sys2Proof.Machine
end

section
/-! PROOFS. Exceptions (`spec/60_exceptions.md`): the entry checks of the decoders (R310), a failed decode issued again
(R305), that every command completes (R301, R328), and which outcome each operation can end in (R306). -/

namespace Sys2Proof.Machine

/-! ### The entry checks, one by one (R310) -/

section
variable {S : BitVec 16} {nIn : BitVec 17} {found want : BitVec 4} {expected : BitVec 2}

theorem entryChecks_of_small (hsmall : S.toNat < 5) :
    entryChecks S nIn found want expected = some (.sizeImplausible S false) := if_pos hsmall

theorem entryChecks_of_unsupplied (hsize : 5 ≤ S.toNat) (hlarge : nIn.toNat < S.toNat) :
    entryChecks S nIn found want expected = some (.sizeImplausible S true) := by
  rw [entryChecks, if_neg (by omega), if_pos hlarge]

theorem entryChecks_of_other_type (hsize : 5 ≤ S.toNat) (hsupplied : S.toNat ≤ nIn.toNat) (hne : found ≠ want) :
    entryChecks S nIn found want expected = some (.invalidPacketType found expected) := by
  rw [entryChecks, if_neg (by omega), if_neg (by omega), if_pos hne]

theorem entryChecks_of_missing_word (hsize : S.toNat = 5) (hsupplied : 5 ≤ nIn.toNat) (htype : found = want) :
    entryChecks S nIn found want expected = some (.truncatedField siteFixed 5) := by
  rw [entryChecks, if_neg (by omega), if_neg (by omega), if_neg (not_not.mpr htype), if_pos hsize]

end

/-- R304: a field and what stands above it in ERRINFO, as a sum. -/
theorem setWidth_or_shiftLeft {n k : Nat} (x : BitVec n) (y : BitVec 32) (h : n ≤ k) :
    x.setWidth 32 ||| y <<< k = x.setWidth 32 + y <<< k := by
  refine (BitVec.add_eq_or_of_and_eq_zero _ _ (BitVec.eq_of_getLsbD_eq fun b hb => ?_)).symm
  by_cases hbk : b < k
  · simp [hbk]
  · simp [BitVec.getLsbD_of_ge x b (by omega)]

/-- R310 with R304 and R305: the failures of a decode that raises what its entry checks give. -/
theorem failedDecode_of_entryChecks {s t : State} {S : BitVec 16} {found want : BitVec 4} {expected : BitVec 2}
    (h : ∀ e, entryChecks S s.nIn found want expected = some e →
      FailedDecode s t (errorStatus e) (errorInfo e) (errorCursor e)) :
    (S.toNat < 5 → FailedDecode s t 0x1B (S.setWidth 32) 0) ∧
    (5 ≤ S.toNat → s.nIn.toNat < S.toNat → FailedDecode s t 0x1B (S.setWidth 32 + 0x10000) 0) ∧
    (5 ≤ S.toNat → S.toNat ≤ s.nIn.toNat → found ≠ want →
      FailedDecode s t 0x11 (found.setWidth 32 + expected.setWidth 32 <<< 4) 0) ∧
    (S.toNat = 5 → 5 ≤ s.nIn.toNat → found = want → FailedDecode s t 0x12 0x143E 5) := by
  refine ⟨fun hsmall => ?small, fun hsize hlarge => ?unsupplied, fun hsize hsupplied hne => ?type,
    fun hsize hsupplied htype => ?missing⟩
  case small =>
    have hfailed := h _ (entryChecks_of_small hsmall)
    rwa [errorStatus_sizeImplausible, errorInfo, setWidth_or_shiftLeft _ _ le_rfl,
      show (BitVec.ofBool false).setWidth 32 <<< 16 = 0#32 by decide, BitVec.add_zero] at hfailed
  case unsupplied =>
    have hfailed := h _ (entryChecks_of_unsupplied hsize hlarge)
    rwa [errorStatus_sizeImplausible, errorInfo, setWidth_or_shiftLeft _ _ le_rfl] at hfailed
  case type =>
    have hfailed := h _ (entryChecks_of_other_type hsize hsupplied hne)
    rwa [errorStatus_invalidPacketType, errorInfo, setWidth_or_shiftLeft _ _ le_rfl] at hfailed
  case missing =>
    have hfailed := h _ (entryChecks_of_missing_word hsize hsupplied htype)
    rwa [errorStatus_truncatedField] at hfailed

/-- R305: the two decodes raise alike. -/
theorem raiseError_decodeContext (e : ErrorOutcome) (s : State) :
    raiseError .decodeContext e s = raiseError .decodeData e s := rfl

theorem decodeDataOp_of_entryChecks {c : Config} {S : BitVec 16} {s : State} {e : ErrorOutcome} (ref : F64)
    (h : entryChecksOf c S c.typeData .data s = some e) : decodeDataOp c S ref s = raiseError .decodeData e s := by
  rw [decodeDataOp, h]

theorem decodeContextOp_of_entryChecks {c : Config} {S : BitVec 16} {s : State} {e : ErrorOutcome}
    (h : entryChecksOf c S c.typeContext .context s = some e) :
    decodeContextOp c S s = raiseError .decodeContext e s := by
  rw [decodeContextOp, h]

/-- R244, R310: past the entry checks DECODE_CONTEXT fails only in the walk. -/
theorem decodeContextOp_status_of_passes {c : Config} {S : BitVec 16} {s : State} (hfixed : 6 ≤ S.toNat)
    (hsupplied : S.toNat ≤ s.nIn.toNat) (htype : headerType c (memRead c s 0) = c.typeContext) :
    (decodeContextOp c S s).status = 0x10 ∨ (decodeContextOp c S s).status = 0x12 := by
  cases hwalk : walkPacket c S s with
  | ok p =>
    rw [decodeContextOp_of_walk_ok hfixed hsupplied htype hwalk]
    exact .inl statusOk_eq
  | error e =>
    obtain ⟨row, cur, rfl⟩ := walk_eq_error hwalk
    rw [decodeContextOp_of_walk_error hfixed hsupplied htype hwalk]
    exact .inr (errorStatus_truncatedField ..)

/-- Settles O15: each failing check is an equation of `entryChecks`, whose error the decode raises; past the checks only
the walk can fail. -/
theorem decodersCheckEntryInOrder : Obligations.DecodersCheckEntryInOrder := by
  rintro s S w0 rfl
  constructor
  · intro ref
    obtain ⟨hsmall, hlarge, hother, hmissing⟩ :=
      failedDecode_of_entryChecks (t := decodeDataOp Config.phpc S ref s) fun e he => by
        rw [decodeDataOp_of_entryChecks ref he, ← raiseError_decodeContext]
        exact failedDecode_raiseError e s
    refine ⟨_, exec_decodeData S ref s, hsmall, hlarge, hother, hmissing, fun hfixed hsupplied htype => ?_⟩
    rw [decodeDataOp_of_passes hfixed hsupplied htype]
    exact statusOk_eq
  · obtain ⟨hsmall, hlarge, hother, hmissing⟩ :=
      failedDecode_of_entryChecks (t := decodeContextOp Config.phpc S s) fun e he => by
        rw [decodeContextOp_of_entryChecks he]
        exact failedDecode_raiseError e s
    refine ⟨_, exec_decodeContext S s, hsmall, hlarge, hother, hmissing, fun hfixed hsupplied htype => ?_⟩
    refine (decodeContextOp_status_of_passes hfixed hsupplied htype).imp_right fun hwalk => ?_
    rw [hwalk]
    decide

/-! ### A decode that fails (R305) -/

section
variable {s s' : State}

theorem memRead_congr (c : Config) (hibuf : s'.ibuf = s.ibuf) : memRead c s' = memRead c s := by
  funext a
  rw [memRead, memRead, State.ibufAt, State.ibufAt, hibuf]

theorem entryChecksOf_congr (c : Config) (S : BitVec 16) (want : BitVec 4) (kind : PacketType)
    (hibuf : s'.ibuf = s.ibuf) (hnIn : s'.nIn = s.nIn) :
    entryChecksOf c S want kind s' = entryChecksOf c S want kind s := by
  rw [entryChecksOf, entryChecksOf, memRead_congr c hibuf, hnIn]

theorem walkPacket_congr (c : Config) (S : BitVec 16) (hibuf : s'.ibuf = s.ibuf) :
    walkPacket c S s' = walkPacket c S s := by
  rw [walkPacket, walkPacket, memRead_congr c hibuf]

end

/-- R305: on the input buffer of `s`, whatever else a state holds, the operation `decode` ends in the error `e`. -/
def FailsOnInput (decode : State → State) (s : State) (e : ErrorOutcome) : Prop :=
  ∀ s' : State, s'.ibuf = s.ibuf → s'.nIn = s.nIn → decode s' = raiseError .decodeData e s'

/-- R305, R306: `decode` completes in `s`, or ends in one of a decode's errors, which the input buffer alone decides. -/
def CompletesOrFails (decode : State → State) (s : State) : Prop :=
  (∃ u, decode s = complete u) ∨ ∃ e, DecodeError (errorStatus e) ∧ FailsOnInput decode s e

/-- R201, R305: DECODE_DATA completes, or its error comes from the input buffer alone. -/
theorem decodeDataOp_completesOrFails (c : Config) (S : BitVec 16) (ref : F64) (s : State) :
    CompletesOrFails (decodeDataOp c S ref) s := by
  cases hentry : entryChecksOf c S c.typeData .data s with
  | none => exact .inl ⟨_, by rw [decodeDataOp, hentry]; rfl⟩
  | some e =>
    refine .inr ⟨e, decodeError_of_entryChecks hentry, fun s' hibuf hnIn => ?_⟩
    exact decodeDataOp_of_entryChecks ref ((entryChecksOf_congr c S _ _ hibuf hnIn).trans hentry)

/-- R244, R305: DECODE_CONTEXT completes, or its error comes from the input buffer alone. -/
theorem decodeContextOp_completesOrFails (c : Config) (S : BitVec 16) (s : State) :
    CompletesOrFails (decodeContextOp c S) s := by
  cases hentry : entryChecksOf c S c.typeContext .context s with
  | some e =>
    refine .inr ⟨e, decodeError_of_entryChecks hentry, fun s' hibuf hnIn => ?_⟩
    rw [← raiseError_decodeContext]
    exact decodeContextOp_of_entryChecks ((entryChecksOf_congr c S _ _ hibuf hnIn).trans hentry)
  | none =>
    cases hwalk : walkPacket c S s with
    | ok p => exact .inl ⟨_, by rw [decodeContextOp, hentry, hwalk]⟩
    | error e =>
      obtain ⟨row, cur, rfl⟩ := walk_eq_error hwalk
      refine .inr ⟨.truncatedField row cur, .inl (errorStatus_truncatedField ..), fun s' hibuf hnIn => ?_⟩
      rw [decodeContextOp, entryChecksOf_congr c S _ _ hibuf hnIn, hentry, walkPacket_congr c S hibuf, hwalk]
      exact raiseError_decodeContext ..

theorem FailsOnInput.repeats {decode : State → State} {s : State} {e : ErrorOutcome} (h : FailsOnInput decode s e) :
    decode s = raiseError .decodeData e s ∧ decode (decode s) = raiseError .decodeData e (decode s) := by
  have hself := h s rfl rfl
  exact ⟨hself, h (decode s) (by rw [hself]; rfl) (by rw [hself]; rfl)⟩

/-- R305: such a decode, issued again after a failure, fails in the same way. -/
theorem CompletesOrFails.failure_repeats {decode : State → State} {s : State} (hcases : CompletesOrFails decode s)
    (hfailed : statusCode (decode s).status ≠ 0) :
    (decode (decode s)).status = (decode s).status ∧ (decode (decode s)).errinfo = (decode s).errinfo ∧
      (decode (decode s)).cur = (decode s).cur ∧ (decode (decode s)).record.kind = .none := by
  obtain ⟨u, hok⟩ | ⟨e, -, hfails⟩ := hcases
  · rw [hok, complete_status, statusOk_eq] at hfailed
    exact absurd rfl hfailed
  · obtain ⟨hfirst, hsecond⟩ := hfails.repeats
    rw [hsecond, hfirst]
    exact ⟨rfl, rfl, rfl, rfl⟩

/-- Settles O16: the error of a decode is a function of the input buffer, which a failed decode leaves alone. -/
theorem failedDecodeRepeats : Obligations.FailedDecodeRepeats := by
  rintro i s t (⟨S, ref, rfl⟩ | ⟨S, rfl⟩) h hfailed
  · cases h
    exact ⟨_, exec_decodeData S ref _, (decodeDataOp_completesOrFails Config.phpc S ref s).failure_repeats hfailed⟩
  · cases h
    exact ⟨_, exec_decodeContext S _, (decodeContextOp_completesOrFails Config.phpc S s).failure_repeats hfailed⟩

/-! ### The outcome of an operation (R25, R301, R303) -/

/-- R301, R303: STATUS after an operation that ended in the outcome `code`: done set, fatal exactly for code 3. -/
def outcomeStatus (code : BitVec 3) : BitVec 5 := statusImage true (code == 3) code

theorem errorStatus_eq_outcomeStatus (e : ErrorOutcome) : errorStatus e = outcomeStatus (errorCode e) := by
  cases e <;> rfl

theorem statusCode_outcomeStatus (code : BitVec 3) : statusCode (outcomeStatus code) = code := by
  revert code; decide

theorem statusDone_outcomeStatus (code : BitVec 3) : statusDone (outcomeStatus code) = true := by
  revert code; decide

theorem statusFatal_outcomeStatus (code : BitVec 3) : statusFatal (outcomeStatus code) = true ↔ code = 3 := by
  revert code; decide

/-- STATUS is that of an operation that ended in one of these outcomes. -/
def EndsIn (codes : List (BitVec 3)) (t : State) : Prop := ∃ code ∈ codes, t.status = outcomeStatus code

section
variable {codes : List (BitVec 3)}

theorem endsIn_complete (h : 0 ∈ codes) (s : State) : EndsIn codes (complete s) := ⟨0, h, rfl⟩

theorem endsIn_raiseError {e : ErrorOutcome} (h : errorCode e ∈ codes) (op : Op) (s : State) :
    EndsIn codes (raiseError op e s) := ⟨errorCode e, h, errorStatus_eq_outcomeStatus e⟩

theorem EndsIn.statusCode_mem {t : State} (h : EndsIn codes t) : statusCode t.status ∈ codes := by
  obtain ⟨code, hmem, hstatus⟩ := h
  rwa [hstatus, statusCode_outcomeStatus]

theorem EndsIn.done_and_fatal {t : State} (h : EndsIn codes t) :
    statusDone t.status = true ∧ (statusFatal t.status = true ↔ statusCode t.status = 3) := by
  obtain ⟨code, -, hstatus⟩ := h
  rw [hstatus, statusCode_outcomeStatus]
  exact ⟨statusDone_outcomeStatus code, statusFatal_outcomeStatus code⟩

end

/-! ### Each command's outcomes (R306) -/

theorem endsIn_peekOp (c : Config) (s : State) : EndsIn [0, 3] (peekOp c s) := by
  by_cases hnone : s.nIn = 0
  · rw [peekOp_of_nIn_eq_zero c hnone]
    exact endsIn_raiseError (by simp [errorCode]) ..
  · rw [peekOp_of_nIn_ne_zero c hnone]
    exact endsIn_complete (by simp) _

/-- R306: STATUS after a decode. -/
theorem CompletesOrFails.endsIn {decode : State → State} {s : State} (hcases : CompletesOrFails decode s) :
    EndsIn [0, 1, 2, 3] (decode s) := by
  obtain ⟨u, hok⟩ | ⟨e, herror, hfails⟩ := hcases
  · rw [hok]
    exact endsIn_complete (by simp) u
  · rw [hfails s rfl rfl]
    rcases herror with h | h | h
    · exact ⟨2, by simp, h⟩
    · exact ⟨1, by simp, h⟩
    · exact ⟨3, by simp, h⟩

theorem endsIn_encodeDataOp (c : Config) (s : State) : EndsIn [0, 4] (encodeDataOp c s) := by
  simp only [encodeDataOp]
  split
  · exact endsIn_raiseError (by simp [errorCode]) ..
  · exact endsIn_complete (by simp) _

/-- R262: a row that does not convert overflows, and nothing else ends the encoder. -/
theorem errorCode_of_encodeRows {c : Config} {x : ContextRec} {rows : List FieldRow} {idx : Nat} {e : ErrorOutcome}
    (h : encodeRows c x idx rows = .error e) : errorCode e = 4 := by
  induction rows generalizing idx with
  | nil => cases h
  | cons r rows ih =>
    rw [encodeRows] at h
    split at h
    · cases h; rfl
    · split at h
      next hrest => cases h; exact ih hrest
      next => cases h

theorem endsIn_encodeContextOp (c : Config) (s : State) : EndsIn [0, 4] (encodeContextOp c s) := by
  unfold encodeContextOp
  split
  next hrows => exact endsIn_raiseError (by simp [errorCode_of_encodeRows hrows]) ..
  next =>
    split
    · exact endsIn_raiseError (by simp [errorCode]) ..
    · exact endsIn_complete (by simp) _

theorem endsIn_toFixedOp (c : Config) (x : F64) (frac : BitVec 6) (W : Nat) (s : State) :
    EndsIn [0, 4] (toFixedOp c x frac W s) := by
  unfold toFixedOp
  split
  · exact endsIn_raiseError (by simp [errorCode]) ..
  · exact endsIn_complete (by simp) _

/-- R306: a command that answers a next state ends in an outcome that the table gives it. -/
theorem exec_command_endsIn {i : Instr} {s t : State} (hcmd : isCommand i = true) (h : exec i s = .next t) :
    EndsIn (allowedCodes i) t := by
  cases i
  case normalize | packHeader | packTrailer | packIndicator => cases h; exact endsIn_complete (by simp [allowedCodes]) _
  case peek => cases h; exact endsIn_peekOp ..
  case decodeData S ref => cases h; exact (decodeDataOp_completesOrFails Config.phpc S ref s).endsIn
  case decodeContext S => cases h; exact (decodeContextOp_completesOrFails Config.phpc S s).endsIn
  case encodeData => rw [← encodeDataCommand_eq_next h]; exact endsIn_encodeDataOp ..
  case encodeContext => cases h; exact endsIn_encodeContextOp ..
  case toFixed x frac width =>
    obtain ⟨W, rfl⟩ := toFixedCommand_eq_next h
    exact endsIn_toFixedOp ..
  case toFloat n frac width =>
    obtain ⟨W, rfl⟩ := toFloatCommand_eq_next h
    exact endsIn_complete (by simp [allowedCodes]) _
  all_goals nomatch hcmd

/-! ### Every command completes (R328) -/

theorem exists_widthBits_of_widthOk {width : BitVec 2} (h : widthOk width = true) :
    ∃ W, widthBits width = some W := by
  have hsome : ∀ w, widthOk w = true → (widthBits w).isSome = true := by decide
  exact Option.isSome_iff_exists.mp (hsome width h)

/-- R328: a well-formed command has a step in every state, ENCODE_DATA where NSAMP is even. -/
theorem exec_command_answers {i : Instr} {s : State} (hcmd : isCommand i = true) (hwf : i.wf = true)
    (heven : i = .encodeData → s.nsamp.toNat % 2 = 0) : ∃ t, exec i s = .next t := by
  cases i
  case encodeData => exact ⟨_, (exec_encodeData s).trans (encodeDataCommand_of_even _ (heven rfl))⟩
  case toFixed x frac width =>
    obtain ⟨W, hW⟩ := exists_widthBits_of_widthOk hwf
    exact ⟨_, exec_toFixed hW x frac s⟩
  case toFloat n frac width =>
    obtain ⟨W, hW⟩ := exists_widthBits_of_widthOk hwf
    exact ⟨_, exec_toFloat hW n frac s⟩
  case normalize | peek | decodeData | decodeContext | encodeContext | packHeader | packTrailer | packIndicator =>
    exact ⟨_, rfl⟩
  all_goals nomatch hcmd

/-- Settles O17: a command answers, and the STATUS of every outcome has the two flags. -/
theorem everyCommandCompletes : Obligations.EveryCommandCompletes := by
  intro i s hcmd hwf heven
  obtain ⟨t, h⟩ := exec_command_answers hcmd hwf heven
  exact ⟨t, h, (exec_command_endsIn hcmd h).done_and_fatal⟩

/-! ### A packet word's row and STATUS (R306, log 8) -/

/-- R244: a row met at CUR leaves STATUS alone, or has words that pass the bound. -/
theorem presentField_status (c : Config) (idx : Nat) (row : FieldRow) (s : State) :
    (presentField c idx row s).status = s.status ∨
      0 < row.dec.width ∧ (presentField c idx row s).status = 0x12 := by
  unfold presentField
  split
  next hrow =>
    obtain ⟨-, hwords, -, rfl⟩ := (walkRow_eq_error_iff ..).mp hrow
    exact .inr ⟨hwords, errorStatus_truncatedField ..⟩
  next => exact .inl rfl

theorem allowedCodes_fieldRow {i : Instr} (h : isFieldRow i = true) (hne : i ≠ .cifChangeIndicator) :
    allowedCodes i = [2] := by
  cases i
  case cifChangeIndicator => exact absurd rfl hne
  all_goals first | rfl | nomatch h

theorem exec_fieldRow_status {i : Instr} {s t : State} (hrow : isFieldRow i = true) (h : exec i s = .next t) :
    t.status = s.status ∨ statusCode t.status ∈ allowedCodes i := by
  by_cases hflag : i = .cifChangeIndicator
  · subst hflag
    cases h
    exact (presentField_status Config.phpc 0 Config.rowChangeIndicator s).imp_right fun hwords =>
      absurd hwords.1 (by decide)
  · obtain ⟨idx, row, hexec⟩ := exec_fieldRow hrow s
    obtain rfl := Host.Outcome.next.inj (hexec.symm.trans h)
    refine (presentField_status Config.phpc idx row s).imp_right fun ⟨_, hstatus⟩ => ?_
    rw [hstatus, allowedCodes_fieldRow hrow hflag]
    decide

theorem appendPair_status {x y : Sample} {s t : State} (h : appendPair x y s = .next t) : t.status = s.status := by
  unfold appendPair at h
  split at h
  · cases h; rfl
  · cases h

/-- A packet word's row outside the field table is no operation: it has no outcome. -/
theorem exec_row_status {i : Instr} {s t : State} (hcmd : isCommand i = false) (hrow : isFieldRow i = false)
    (h : exec i s = .next t) : t.status = s.status := by
  cases i
  case reservedOp0 | reservedOpC | reservedOpD | reservedOpE | reservedOpF => cases h
  case iq x y => exact appendPair_status h
  case hdrData | hdrContext => cases h; rfl
  case trlCalibratedTime | trlValidData | trlReferenceLock | trlOverRange | trlSampleLoss | trlCtxCount =>
    cases h; rfl
  case normalize | peek | decodeData | decodeContext | encodeData | encodeContext | toFixed | toFloat | packHeader
      | packTrailer | packIndicator => nomatch hcmd
  all_goals nomatch hrow

/-- Settles O18: a command ends in an outcome of its row of the table, a packet word's row at most in the walk's
error. -/
theorem outcomeCodesAreThoseOfTheTable : Obligations.OutcomeCodesAreThoseOfTheTable := by
  intro i s t h
  refine ⟨fun hcmd => (exec_command_endsIn hcmd h).statusCode_mem, fun hcmd => ?_⟩
  cases hrow : isFieldRow i with
  | true => exact exec_fieldRow_status hrow h
  | false => exact .inl (exec_row_status hcmd hrow h)

end Sys2Proof.Machine
end

section
/-! PROOFS. Reset and hazards (`spec/70_reset_and_hazards.md`): the step of a fetched form (R346), the transport load
and the host record write (R347). -/

namespace Sys2Proof.Machine

/-! ### What the decoder gives is well formed (R13, R82) -/

theorem wf_of_decodeReserved {code : BitVec 4} {i : Instr} (h : decodeReserved code = .ok i) : i.wf = true := by
  unfold decodeReserved at h
  split at h <;> cases h <;> rfl

/-- The reserved width is the only operand of a command that is not legal. -/
theorem conversion_of_not_wf {op : Op} {m : Cmd} (h : (instrOfOperation op m).wf = false) :
    (op = .toFixed ∨ op = .toFloat) ∧ m.width = 3 := by
  have hwidth : widthOk m.width = false → m.width = 3 := by simp [widthOk]
  cases op
  case toFixed => exact ⟨.inl rfl, hwidth h⟩
  case toFloat => exact ⟨.inr rfl, hwidth h⟩
  all_goals nomatch h

theorem wf_of_decodeCommand {c : Config} {m : Cmd} {i : Instr} (h : decodeCommand c m = .ok i) : i.wf = true := by
  cases hop : operationOf c m.op with
  | none => exact wf_of_decodeReserved ((decodeCommand_of_no_operation hop).symm.trans h)
  | some op =>
    cases hwf : (instrOfOperation op m).wf with
    | true =>
      cases (decodeCommand_of_operation hop hwf).symm.trans h
      exact hwf
    | false =>
      obtain ⟨hconv, hwidth⟩ := conversion_of_not_wf hwf
      nomatch (decodeCommand_of_reservedWidth hop hconv hwidth).symm.trans h

theorem wf_of_decodeHeader {c : Config} {w : Word} {i : Instr} (h : decodeHeader c w = .ok i) : i.wf = true := by
  unfold decodeHeader at h
  split at h
  · cases h; rfl
  · split at h
    · cases h; rfl
    · cases h

theorem wf_instrOfPair (name : TrailerName) (b : Bool) : (instrOfPair name b).wf = true := by
  cases name <;> rfl

theorem wf_of_firstPair {c : Config} {w : Word} {i : Instr} {ps : List TrailerPair}
    (h : firstPair c w ps = .ok i) : i.wf = true := by
  induction ps with
  | nil =>
    unfold firstPair at h
    split at h
    · cases h; rfl
    · cases h
  | cons p ps ih =>
    unfold firstPair at h
    split at h
    · cases h; exact wf_instrOfPair ..
    · exact ih h

theorem wf_of_instrOfField {name : FieldName} {i : Instr} (h : instrOfField name = some i) : i.wf = true := by
  cases name <;> cases h <;> rfl

theorem wf_of_firstField {w : Word} {i : Instr} {rows : List FieldRow} (h : firstField w rows = .ok i) :
    i.wf = true := by
  induction rows with
  | nil => cases h
  | cons r rows ih =>
    unfold firstField at h
    split at h
    next j hj =>
      split at h
      · cases h; exact wf_of_instrOfField hj
      · exact ih h
    next => exact ih h

/-- Under every configuration, whatever the decoder gives is well formed. -/
theorem wf_of_decodeWith {c : Config} {f : Fetch} {i : Instr} (h : decodeWith c f = .ok i) : i.wf = true := by
  cases f with
  | command m => exact wf_of_decodeCommand h
  | element format w =>
    cases format with
    | hdr => exact wf_of_decodeHeader h
    | iq => cases h; rfl
    | trl => exact wf_of_firstPair h
    | cif => exact wf_of_firstField h

/-- Settles O1: the decoder gives only well-formed instructions, and the step of a fetched form runs them. -/
theorem stepRunsFetchedInstruction : Obligations.StepRunsFetchedInstruction := by
  intro s f rest i hpend hdec
  exact ⟨wf_of_decodeWith hdec, step_of_decode_ok hpend hdec⟩

/-! ### The transport load (R346, R347) -/

theorem step_of_no_action {s : State} (h : s.pending = []) : step s = .next s := by
  rw [step, runPending, h]

theorem step_of_action {s : State} {a : Action} {rest : List Action} (h : s.pending = a :: rest) :
    step s = runAction Config.phpc exec a { s with pending := rest } := by
  rw [step, runPending, h]

theorem transportLoad_of_gt (ws : List (BitVec 16 × Word)) {n : BitVec 17} (s : State) (h : 65536 < n.toNat) :
    transportLoad Config.phpc ws n s = .refused .loadPastBuffer :=
  if_neg fun hfits => Nat.not_le_of_lt h hfits.1

/-- The last write of an index by a load is what the index reads as. -/
theorem read_loadWords_of_last (m : Memory 32) (pre : List (BitVec 16 × Word)) (a : BitVec 16) (v : Word)
    {post : List (BitVec 16 × Word)} (h : ∀ p ∈ post, p.1 ≠ a) :
    (loadWords m (pre ++ (a, v) :: post)).read Config.freeIbuf a.toNat = v := by
  have hpost : ∀ p ∈ post, p.1.toNat ≠ a.toNat := fun p hp => BitVec.toNat_ne_iff_ne.mpr (h p hp)
  rw [loadWords_append, loadWords, read_loadWords_of_ne _ _ _ hpost, Memory.read_write_self]

/-- Settles O2: a load within the bound is `loadWords` with N_IN, whose reads are those of its last writes. -/
theorem transportLoadWritesInputBuffer : Obligations.TransportLoadWritesInputBuffer := by
  refine ⟨fun s => step_of_no_action, ?_, ?_⟩
  · intro s ws n rest hpend hn
    have hload := (transportLoad_eq_next_iff ws n { s with pending := rest } _).mpr ⟨hn, rfl⟩
    refine ⟨_, (step_of_action hpend).trans hload, rfl, ?_, fun a ha => read_loadWords_of_ne _ _ _ ha⟩
    rintro pre a v post rfl hpost
    exact read_loadWords_of_last _ _ _ _ hpost
  · intro s ws n rest hpend hn
    exact (step_of_action hpend).trans (transportLoad_of_gt ws _ hn)

/-! ### Which host writes are accepted (R347, R241, log 17) -/

theorem hostWriteOk_ctxField_iff (name : FieldName) (v : Option FieldValue) :
    hostWriteOk Config.phpc (.ctxField name v) = true ↔ NamesMember name v := by
  have htype : ∀ row : FieldRow, v.all row.dec.fits = true ↔ ∀ u, v = some u → row.dec.fits u = true := by
    cases v <;> simp
  simp only [hostWriteOk, NamesMember, List.any_eq_true, Bool.and_eq_true, decide_eq_true_eq, htype]
  rfl

/-- Only a write of a member of REC.ctx can name a place that does not exist. -/
theorem hostWriteOk_all_iff (ws : List HostWrite) :
    (∀ w ∈ ws, hostWriteOk Config.phpc w = true) ↔ ∀ name v, .ctxField name v ∈ ws → NamesMember name v := by
  constructor
  · exact fun h name v hmem => (hostWriteOk_ctxField_iff name v).mp (h _ hmem)
  · intro h w hmem
    cases w
    case ctxField name v => exact (hostWriteOk_ctxField_iff name v).mpr (h name v hmem)
    all_goals rfl

theorem hostRecord_of_not_ok {c : Config} {ws : List HostWrite} (s : State)
    (h : ¬ ∀ w ∈ ws, hostWriteOk c w = true) : hostRecord c ws s = .refused .notAMember :=
  if_neg fun hall => h (List.all_eq_true.mp hall)

/-! ### One host write, place by place (R347) -/

/-- A write puts its value in the place it names. -/
theorem holdsWrite_hostWriteOne_self (s : State) (w : HostWrite) : HoldsWrite (hostWriteOne s w) w := by
  cases w
  case trlPair p v => exact Trailer.pair_setPair_self ..
  case ctxField name v => exact ContextRec.get_set_self ..
  case rawiq i v => exact Memory.read_write_self ..
  all_goals rfl

/-- No place that a host write names is the caller's list of actions. -/
theorem holdsWrite_pending (s : State) (rest : List Action) (w : HostWrite) :
    HoldsWrite { s with pending := rest } w ↔ HoldsWrite s w := by
  cases w <;> rfl

/-- A write leaves the entries of RAWIQ that it does not name alone. -/
theorem rawiqAt_hostWriteOne_of_ne (s : State) {u : HostWrite} {j : Nat}
    (h : ∀ i v, u = .rawiq i v → i.toNat ≠ j) : (hostWriteOne s u).rawiqAt j = s.rawiqAt j := by
  cases u
  case rawiq i v => exact Memory.read_write_of_ne _ _ (h i v rfl).symm v
  all_goals rfl

theorem Trailer.pair_ctxCount (t : Trailer) (n : Option (BitVec 6)) (p : TrailerName) :
    ({ t with ctxCount := n } : Trailer).pair p = t.pair p := by
  cases p <;> rfl

/-- A write leaves the trailer pairs that it does not name alone. -/
theorem pair_hostWriteOne_of_ne (s : State) {u : HostWrite} {p : TrailerName}
    (h : writeTarget u ≠ .trlPair p none) : (hostWriteOne s u).record.trl.pair p = s.record.trl.pair p := by
  cases u
  case trlPair q v =>
    have hne : p ≠ q := fun e => h (congrArg (HostWrite.trlPair · none) e.symm)
    exact Trailer.pair_setPair_of_ne _ v hne
  case trlCtxCount n => exact Trailer.pair_ctxCount ..
  all_goals rfl

/-- A write leaves the members of REC.ctx that it does not name alone. -/
theorem ctxGet_hostWriteOne_of_ne (s : State) {u : HostWrite} {name : FieldName}
    (h : writeTarget u ≠ .ctxField name none) :
    (hostWriteOne s u).record.ctx.get name = s.record.ctx.get name := by
  cases u
  case ctxField other v =>
    have hne : name ≠ other := fun e => h (congrArg (HostWrite.ctxField · none) e.symm)
    exact ContextRec.get_set_of_ne _ hne v
  all_goals rfl

/-- A write leaves every place that it does not name alone. The places that a key selects have their own lemmas; of
the others, a write names the place itself or one beside it. -/
theorem holdsWrite_hostWriteOne_of_ne (s : State) {u w : HostWrite} (h : writeTarget u ≠ writeTarget w) :
    HoldsWrite (hostWriteOne s u) w ↔ HoldsWrite s w := by
  cases w
  case trlPair p v => exact Eq.congr_left (pair_hostWriteOne_of_ne s h)
  case ctxField name v => exact Eq.congr_left (ctxGet_hostWriteOne_of_ne s h)
  case rawiq j v =>
    refine Eq.congr_left (rawiqAt_hostWriteOne_of_ne s ?_)
    rintro i x rfl hij
    exact h (congrArg (HostWrite.rawiq · 0) (BitVec.eq_of_toNat_eq hij))
  case trlCtxCount n =>
    cases u
    case trlPair p v => exact Eq.congr_left (Trailer.setPair_ctxCount ..)
    case trlCtxCount => exact absurd rfl h
    all_goals rfl
  all_goals
    cases u
    all_goals first | rfl | exact absurd rfl h

/-! ### A host record write (R347) -/

theorem hostRecordWrite_frame (ws : List HostWrite) (s : State) :
    hostRecordWrite ws s = { s with record := (hostRecordWrite ws s).record,
                                    rawiq := (hostRecordWrite ws s).rawiq,
                                    nsamp := (hostRecordWrite ws s).nsamp } := by
  induction ws generalizing s with
  | nil => rfl
  | cons w ws ih =>
    have hrest := ih (hostWriteOne s w)
    rw [hostWriteOne_frame s w] at hrest
    rw [hostRecordWrite, hostWriteOne_frame s w]
    exact hrest

theorem holdsWrite_hostRecordWrite_of_ne {ws : List HostWrite} {w : HostWrite} (s : State)
    (h : ∀ u ∈ ws, writeTarget u ≠ writeTarget w) :
    HoldsWrite (hostRecordWrite ws s) w ↔ HoldsWrite s w := by
  induction ws generalizing s with
  | nil => rfl
  | cons u ws ih =>
    obtain ⟨hu, hws⟩ := List.forall_mem_cons.mp h
    exact (ih (hostWriteOne s u) hws).trans (holdsWrite_hostWriteOne_of_ne s hu)

/-- The last write that names a place is what the place holds. -/
theorem holdsWrite_hostRecordWrite_of_last (pre : List HostWrite) (w : HostWrite) {post : List HostWrite} (s : State)
    (h : ∀ u ∈ post, writeTarget u ≠ writeTarget w) :
    HoldsWrite (hostRecordWrite (pre ++ w :: post) s) w := by
  rw [hostRecordWrite_append, hostRecordWrite, holdsWrite_hostRecordWrite_of_ne _ h]
  exact holdsWrite_hostWriteOne_self ..

theorem rawiqAt_hostRecordWrite_of_ne {ws : List HostWrite} {j : Nat} (s : State)
    (h : ∀ i v, .rawiq i v ∈ ws → i.toNat ≠ j) : (hostRecordWrite ws s).rawiqAt j = s.rawiqAt j := by
  induction ws generalizing s with
  | nil => rfl
  | cons u ws ih =>
    have hu : ∀ i v, u = .rawiq i v → i.toNat ≠ j := fun i v e => h i v (e ▸ List.mem_cons_self)
    have hws : ∀ i v, .rawiq i v ∈ ws → i.toNat ≠ j := fun i v hmem => h i v (List.mem_cons_of_mem _ hmem)
    exact (ih (hostWriteOne s u) hws).trans (rawiqAt_hostWriteOne_of_ne s hu)

/-- Settles O3: a record write that names members only is `hostRecordWrite`, whose places hold their last writes; any
other is refused. -/
theorem hostRecordWriteChangesOnlyRecordStores : Obligations.HostRecordWriteChangesOnlyRecordStores := by
  constructor
  · intro s ws rest hpend hmembers
    have hok := (hostWriteOk_all_iff ws).mpr hmembers
    have hnext := (hostRecord_eq_next_iff Config.phpc ws { s with pending := rest } _).mpr ⟨hok, rfl⟩
    refine ⟨_, (step_of_action hpend).trans hnext, hostRecordWrite_frame .., ?_, ?_, ?_⟩
    · rintro pre w post rfl hpost
      exact holdsWrite_hostRecordWrite_of_last pre w _ hpost
    · intro w hw hbefore
      exact (holdsWrite_hostRecordWrite_of_ne _ hw).mpr ((holdsWrite_pending s rest w).mpr hbefore)
    · exact fun j hj => rawiqAt_hostRecordWrite_of_ne _ hj
  · rintro s ws rest hpend ⟨name, v, hmem, hnot⟩
    have hbad : ¬ ∀ w ∈ ws, hostWriteOk Config.phpc w = true := fun hok =>
      hnot ((hostWriteOk_all_iff ws).mp hok name v hmem)
    exact (step_of_action hpend).trans (hostRecord_of_not_ok _ hbad)

end Sys2Proof.Machine
end

section
/-! PROOFS. Encodings and their decoding (`spec/30_encoding.md`): a command's tuple whatever its unread members hold
(R80, R81), the words of the packet formats (R83, R89, R90, R93), and that the decoder inverts the encoder. -/

namespace Sys2Proof.Machine

/-! ### Command tuples (R80, R81) -/

/-- A tuple with an operation's default selector decodes to the operation, whatever the members that it does not read
hold. -/
theorem decode_of_selector {op : Op} {m : Cmd} (hsel : m.op = Config.defaultOpcodes op)
    (hwf : (instrOfOperation op m).wf = true) : decode (.command m) = .ok (instrOfOperation op m) :=
  decodeCommand_of_operation ((operationOf_eq_some_iff (by decide) m.op op).mpr hsel.symm) hwf

/-! ### Header and payload words (R83, R84, R89) -/

/-- R84: a header word with its four fields side by side, by its type code. -/
theorem decodeHeader_append (type : BitVec 4) (flags : BitVec 8) (count : BitVec 4) (size : BitVec 16) :
    decodeHeader Config.phpc (type ++ flags ++ count ++ size) =
      if type = 1 then .ok (.hdrData flags count size)
      else if type = 4 then .ok (.hdrContext flags count size) else .error .noHeaderRow := by
  rw [decodeHeader, headerType_append, headerFlags_append, headerCount_append, headerSize_append]
  rfl

section
variable (flags : BitVec 8) (count : BitVec 4) (size : BitVec 16)

theorem decode_header_data :
    decode (.element .hdr ((1 : BitVec 4) ++ flags ++ count ++ size)) = .ok (.hdrData flags count size) :=
  (decodeHeader_append 1 flags count size).trans (if_pos rfl)

theorem decode_header_context :
    decode (.element .hdr ((4 : BitVec 4) ++ flags ++ count ++ size)) = .ok (.hdrContext flags count size) :=
  (decodeHeader_append 4 flags count size).trans ((if_neg (by decide)).trans (if_pos rfl))

end

/-- R89, R220: splitting a payload word gives the pair that was joined, in either order of its halves. -/
theorem splitIQ_joinIQ (c : Config) (i q : Sample) : splitIQ c (joinIQ c i q) = (i, q) := by
  unfold splitIQ joinIQ
  cases c.sampleIHigh
  · exact Prod.ext BitVec.extractLsb'_append_eq_right BitVec.extractLsb'_append_eq_left
  · exact Prod.ext BitVec.extractLsb'_append_eq_left BitVec.extractLsb'_append_eq_right

theorem decode_iq (i q : Sample) : decode (.element .iq (joinIQ Config.phpc i q)) = .ok (.iq i q) := by
  show decodeIq Config.phpc _ = _
  rw [decodeIq, splitIQ_joinIQ]

/-! ### Trailer words (R90, R210) -/

section
variable {c : Config} {w : Word} {ps : List TrailerPair}

theorem firstPair_cons_of_set {p : TrailerPair} (h : w.getLsbD p.enable = true) :
    firstPair c w (p :: ps) = .ok (instrOfPair p.name (w.getLsbD p.indicator)) := if_pos h

theorem firstPair_cons_of_clear {p : TrailerPair} (h : ¬ w.getLsbD p.enable = true) :
    firstPair c w (p :: ps) = firstPair c w ps := if_neg h

/-- R90: the only pair whose enable bit a word has is the one found, wherever it stands in the table. -/
theorem firstPair_of_unique {p : TrailerPair} (hp : p ∈ ps)
    (henable : ∀ q ∈ ps, w.getLsbD q.enable = true ↔ q = p) :
    firstPair c w ps = .ok (instrOfPair p.name (w.getLsbD p.indicator)) := by
  induction ps with
  | nil => cases hp
  | cons q ps ih =>
    have hfirst := henable q List.mem_cons_self
    by_cases hq : q = p
    · rw [firstPair_cons_of_set (hfirst.mpr hq), hq]
    · rw [firstPair_cons_of_clear fun hbit => hq (hfirst.mp hbit)]
      exact ih (List.mem_of_ne_of_mem (Ne.symm hq) hp) fun r hr => henable r (List.mem_cons_of_mem q hr)

/-- R90: a word with no pair's enable bit is read as the gated count. -/
theorem firstPair_of_no_enable (h : ∀ p ∈ ps, w.getLsbD p.enable = false) : firstPair c w ps = firstPair c w [] := by
  induction ps with
  | nil => rfl
  | cons p ps ih =>
    rw [firstPair_cons_of_clear (Bool.eq_false_iff.mp (h p List.mem_cons_self))]
    exact ih fun q hq => h q (List.mem_cons_of_mem p hq)

end

section
variable {c : Config} (h : TrailerApart c)
include h

/-- The word of one pair, with its indicator clear or set, decodes to the pair's instruction. -/
theorem decodeTrailerElement_pairBits {p : TrailerPair} (hp : p ∈ c.trailerPairs) (b : Bool) :
    decodeTrailerElement c (pairBits p (some b)) = .ok (instrOfPair p.name b) := by
  have henable : ∀ q ∈ c.trailerPairs, (pairBits p (some b)).getLsbD q.enable = true ↔ q = p := by
    intro q hq
    rw [getLsbD_pairBits_eq_true_iff (h.pairs.enable_range q hq).2]
    constructor
    · rintro (⟨-, heq⟩ | ⟨-, heq⟩)
      · exact (h.pairs.enable_inj p hp q hq heq).symm
      · exact absurd heq.symm (h.pairs.enable_ne q hq p hp)
    · rintro rfl
      exact .inl ⟨rfl, rfl⟩
  have hindicator : (pairBits p (some b)).getLsbD p.indicator = b := by
    rw [Bool.eq_iff_iff, getLsbD_pairBits_eq_true_iff (h.pairs.indicator_range p hp).2]
    simp [h.pairs.enable_ne p hp p hp]
  rw [decodeTrailerElement, firstPair_of_unique hp henable, hindicator]

/-- The word of the count has bit 7 and no pair's bit, so that it decodes to the count's instruction. -/
theorem decodeTrailerElement_countBits (n : BitVec 6) :
    decodeTrailerElement c (countBits c (some n)) = .ok (.trlCtxCount n) := by
  have hcount : (countBits c (some n)).extractLsb' c.trailerCountLsb 6 = n := by
    have hlsb := h.countLsb
    refine BitVec.eq_of_getLsbD_eq fun b hb => ?_
    rw [BitVec.getLsbD_extractLsb', getLsbD_countBits_of_lt _ (by omega)]
    simp [hb]
  have hnone : ∀ p ∈ c.trailerPairs, (countBits c (some n)).getLsbD p.enable = false := fun p hp =>
    getLsbD_countBits_of_ge _ h.countLsb (h.pairs.enable_range p hp).1
  have hgate : (countBits c (some n)).getLsbD Config.trailerCountEnBit = true := getLsbD_countBits_enable _ h.countLsb
  rw [decodeTrailerElement, firstPair_of_no_enable hnone, firstPair, if_pos hgate, hcount]

end

theorem decode_pairBits {p : TrailerPair} (hp : p ∈ Config.defaultTrailerPairs) (b : Bool) :
    decode (.element .trl (pairBits p (some b))) = .ok (instrOfPair p.name b) :=
  decodeTrailerElement_pairBits trailerApart_phpc hp b

theorem decode_countBits (n : BitVec 6) :
    decode (.element .trl (countBits Config.phpc (some n))) = .ok (.trlCtxCount n) :=
  decodeTrailerElement_countBits trailerApart_phpc n

/-! ### Indicator words (R93, R242) -/

section
variable {w : Word} {rows : List FieldRow} {r : FieldRow}

theorem firstField_cons_of_set {i : Instr} (hi : instrOfField r.name = some i) (h : w.getLsbD r.bit = true) :
    firstField w (r :: rows) = .ok i := by
  rw [firstField, hi]
  exact if_pos h

theorem firstField_cons_of_clear (h : ¬ w.getLsbD r.bit = true) : firstField w (r :: rows) = firstField w rows := by
  rw [firstField]
  split
  · exact if_neg h
  · rfl

/-- R93: the only row whose bit a word has is the one found, wherever it stands in the table. -/
theorem firstField_of_unique (hr : r ∈ rows) (hbit : ∀ q ∈ rows, w.getLsbD q.bit = true ↔ q = r) {i : Instr}
    (hi : instrOfField r.name = some i) : firstField w rows = .ok i := by
  induction rows with
  | nil => cases hr
  | cons q rows ih =>
    have hfirst := hbit q List.mem_cons_self
    by_cases hq : q = r
    · exact firstField_cons_of_set (hq ▸ hi) (hfirst.mpr hq)
    · rw [firstField_cons_of_clear fun hset => hq (hfirst.mp hset)]
      exact ih (List.mem_of_ne_of_mem (Ne.symm hq) hr) fun p hp => hbit p (List.mem_cons_of_mem q hp)

/-- The rows' bits are apart: the word of one row's bit has no other row's. -/
theorem getLsbD_twoPow_bit (h : RowBitsApart rows) (hr : r ∈ rows) {q : FieldRow} (hq : q ∈ rows) :
    (BitVec.twoPow 32 r.bit).getLsbD q.bit = true ↔ q = r := by
  have hlt := h.bit_lt r hr
  rw [BitVec.getLsbD_twoPow, Bool.and_eq_true, decide_eq_true_eq, decide_eq_true_eq]
  exact ⟨fun ⟨_, hbit⟩ => (h.bit_inj r hr q hq hbit).symm, fun heq => ⟨hlt, congrArg (·.bit) heq.symm⟩⟩

end

theorem decode_twoPow {r : FieldRow} (hr : r ∈ Config.defaultFieldTable) {i : Instr}
    (hi : instrOfField r.name = some i) : decode (.element .cif (BitVec.twoPow 32 r.bit)) = .ok i :=
  firstField_of_unique hr (fun _ hq => getLsbD_twoPow_bit rowBitsApart_default hr hq) hi

/-! ### What the encoder writes (R83, R90, R93, R242) -/

/-- A row looked up by its name, in a table whose names are distinct. -/
theorem find?_name_eq_some {α β : Type} [DecidableEq β] {name : α → β} {rows : List α}
    (hnames : (rows.map name).Nodup) {r : α} (hr : r ∈ rows) :
    rows.find? (fun q => name q = name r) = some r := by
  obtain ⟨q, hfound⟩ := Option.isSome_iff_exists.mp
    (List.find?_isSome (p := fun q => decide (name q = name r)).mpr ⟨r, hr, by simp⟩)
  have hname : name q = name r := by simpa using List.find?_some hfound
  rw [hfound, List.inj_on_of_nodup_map hnames (List.mem_of_find?_eq_some hfound) hr hname]

theorem encode_instrOfPair (n : TrailerName) (b : Bool) : encode (instrOfPair n b) = encodePair Config.phpc n b := by
  cases n <;> rfl

theorem encodePair_eq {p : TrailerPair} (hp : p ∈ Config.defaultTrailerPairs) (b : Bool) :
    encodePair Config.phpc p.name b = .element .trl (pairBits p (some b)) := by
  have hfound := find?_name_eq_some trailerApart_phpc.pairs.names hp
  rw [encodePair, hfound]
  rfl

theorem encode_of_instrOfField {n : FieldName} {i : Instr} (h : instrOfField n = some i) :
    encode i = encodeField Config.phpc n := by
  cases n <;> cases h <;> rfl

theorem encodeField_eq {r : FieldRow} (hr : r ∈ Config.defaultFieldTable) :
    encodeField Config.phpc r.name = .element .cif (BitVec.twoPow 32 r.bit) := by
  have hnames : (Config.phpc.fieldTable.map (·.name)).Nodup := by decide
  rw [encodeField, find?_name_eq_some hnames hr]
  rfl

/-! ### The decoder inverts the encoder -/

theorem decode_encode_pair (n : TrailerName) (b : Bool) :
    decode (encode (instrOfPair n b)) = .ok (instrOfPair n b) := by
  obtain ⟨p, hp, rfl⟩ := trailerApart_phpc.pairs.all n
  rw [encode_instrOfPair, encodePair_eq hp, decode_pairBits hp]

/-- R242: each of the eighteen instructions is that of a row of the table. -/
theorem exists_row_of_isFieldRow {i : Instr} (h : isFieldRow i = true) :
    ∃ r ∈ Config.defaultFieldTable, instrOfField r.name = some i := by
  cases i
  case cifChangeIndicator | cifReferencePointId | cifBandwidth | cifIfRefFreq | cifRfRefFreq | cifRfRefFreqOffset
    | cifIfBandOffset | cifReferenceLevel | cifGain | cifOverRangeCount | cifSampleRate | cifTimestampAdjustment
    | cifTimestampCalTime | cifTemperature | cifDeviceId | cifStateEventIndicators | cifDataPayloadFormat
    | cifGeolocation => decide
  all_goals nomatch h

theorem decode_encode_field {i : Instr} (h : isFieldRow i = true) : decode (encode i) = .ok i := by
  obtain ⟨r, hr, hi⟩ := exists_row_of_isFieldRow h
  rw [encode_of_instrOfField hi, encodeField_eq hr, decode_twoPow hr hi]

theorem decode_encode_command {i : Instr} (hcmd : isCommand i = true) (hwf : i.wf = true) :
    decode (encode i) = .ok i :=
  commandsDecodeUnderAnyOpcodes Config.phpc i (by decide) hcmd hwf

/-- Settles O53: by the format of the instruction. A command's tuple carries its selector and operands; a header's and
a payload's fields stand side by side; a trailer or an indicator word has the bits of one row only. -/
theorem decodeInvertsEncode : Obligations.DecodeInvertsEncode := by
  intro i hwf
  by_cases hcmd : isCommand i = true
  · exact decode_encode_command hcmd hwf
  by_cases hrow : isFieldRow i = true
  · exact decode_encode_field hrow
  cases i
  case reservedOp0 | reservedOpC | reservedOpD | reservedOpE | reservedOpF => rfl
  case hdrData flags count size =>
    rw [encode, encodeWith, packHeaderWord_eq_append]
    exact decode_header_data ..
  case hdrContext flags count size =>
    rw [encode, encodeWith, packHeaderWord_eq_append]
    exact decode_header_context ..
  case iq i q => exact decode_iq i q
  case trlCalibratedTime b => exact decode_encode_pair .calibratedTime b
  case trlValidData b => exact decode_encode_pair .validData b
  case trlReferenceLock b => exact decode_encode_pair .referenceLock b
  case trlOverRange b => exact decode_encode_pair .overRange b
  case trlSampleLoss b => exact decode_encode_pair .sampleLoss b
  case trlCtxCount n => exact decode_countBits n
  all_goals first | exact absurd rfl hcmd | exact absurd rfl hrow

/-! ### The words written out (R81, R83, R84, R89, R90, R93, R210, R242) -/

/-- R90: the count's word is its enable bit above six bits of count. -/
theorem countBits_eq_append (n : BitVec 6) : countBits Config.phpc (some n) = (2 : BitVec 26) ++ n := by
  have hplaces : (2 : BitVec 26) ++ n = (2 : BitVec 26).setWidth 32 <<< 6 ||| n.setWidth 32 := by
    rw [BitVec.append_def]
    rfl
  rw [hplaces]
  show BitVec.twoPow 32 7 ||| n.setWidth 32 <<< 0 = _
  rw [BitVec.shiftLeft_zero]
  rfl

/-- Settles O54: a tuple by its selector, a header and a payload word by its fields, and a literal trailer or indicator
word as the word of one row of its table. -/
theorem specWordsDecode : Obligations.SpecWordsDecode := by
  refine ⟨fun m => ⟨?_, ?_, ?_, ?_, ?_, ?_, ?_, ?_, ?_, ?_, ?_⟩,
    fun flags count size => ⟨decode_header_data .., decode_header_context ..⟩, decode_iq,
    decode_pairBits (p := ⟨.calibratedTime, 31, 19⟩) (by decide) false,
    decode_pairBits (p := ⟨.calibratedTime, 31, 19⟩) (by decide) true,
    decode_pairBits (p := ⟨.validData, 30, 18⟩) (by decide) false,
    decode_pairBits (p := ⟨.validData, 30, 18⟩) (by decide) true,
    decode_pairBits (p := ⟨.referenceLock, 29, 17⟩) (by decide) false,
    decode_pairBits (p := ⟨.referenceLock, 29, 17⟩) (by decide) true,
    decode_pairBits (p := ⟨.overRange, 25, 13⟩) (by decide) false,
    decode_pairBits (p := ⟨.overRange, 25, 13⟩) (by decide) true,
    decode_pairBits (p := ⟨.sampleLoss, 24, 12⟩) (by decide) false,
    decode_pairBits (p := ⟨.sampleLoss, 24, 12⟩) (by decide) true,
    fun n => countBits_eq_append n ▸ decode_countBits n,
    decode_twoPow (r := Config.rowChangeIndicator) (by decide) rfl,
    decode_twoPow (r := Config.rowReferencePointId) (by decide) rfl,
    decode_twoPow (r := Config.rowBandwidth) (by decide) rfl,
    decode_twoPow (r := Config.rowIfRefFreq) (by decide) rfl,
    decode_twoPow (r := Config.rowRfRefFreq) (by decide) rfl,
    decode_twoPow (r := Config.rowRfRefFreqOffset) (by decide) rfl,
    decode_twoPow (r := Config.rowIfBandOffset) (by decide) rfl,
    decode_twoPow (r := Config.rowReferenceLevel) (by decide) rfl,
    decode_twoPow (r := Config.rowGain) (by decide) rfl,
    decode_twoPow (r := Config.rowOverRangeCount) (by decide) rfl,
    decode_twoPow (r := Config.rowSampleRate) (by decide) rfl,
    decode_twoPow (r := Config.rowTimestampAdjustment) (by decide) rfl,
    decode_twoPow (r := Config.rowTimestampCalTime) (by decide) rfl,
    decode_twoPow (r := Config.rowTemperature) (by decide) rfl,
    decode_twoPow (r := Config.rowDeviceId) (by decide) rfl,
    decode_twoPow (r := Config.rowStateEventIndicators) (by decide) rfl,
    decode_twoPow (r := Config.rowDataPayloadFormat) (by decide) rfl,
    decode_twoPow (r := Config.rowGeolocation) (by decide) rfl⟩
  · exact fun h => decode_of_selector (op := .normalize) h rfl
  · exact fun h => decode_of_selector (op := .peek) h rfl
  · exact fun h => decode_of_selector (op := .decodeData) h rfl
  · exact fun h => decode_of_selector (op := .decodeContext) h rfl
  · exact fun h => decode_of_selector (op := .encodeData) h rfl
  · exact fun h => decode_of_selector (op := .encodeContext) h rfl
  · exact fun h hwidth => decode_of_selector (op := .toFixed) h (bne_iff_ne.mpr hwidth)
  · exact fun h hwidth => decode_of_selector (op := .toFloat) h (bne_iff_ne.mpr hwidth)
  · exact fun h => decode_of_selector (op := .packHeader) h rfl
  · exact fun h => decode_of_selector (op := .packTrailer) h rfl
  · exact fun h => decode_of_selector (op := .packIndicator) h rfl

end Sys2Proof.Machine
end

section
/-! PROOFS. The rows for words of a packet as instructions (the model's choice, log 8, log 10): the header rows (R84),
the payload-word row (R202), the trailer rows (R211), and the rows of the field table at CUR (R244, R250 to R256). -/

namespace Sys2Proof.Machine

/-! ### Header, payload and trailer words (R84, R202, R211) -/

/-- What PEEK's lines read from a header word whose four fields are given. -/
theorem peekFields_eq (type : BitVec 4) (flags : BitVec 8) (count : BitVec 4) (size : BitVec 16) (s : State) :
    peekFields Config.phpc type flags count size s =
      { s with ptype := classifyCode Config.phpc type, pcode := type, psize := size } := by
  rw [peekFields, packHeaderWord_eq_append, peekWord, classify, headerType_append, headerSize_append]

/-- Settles O13: the two rows give PEEK's lines a word of their own type code. -/
theorem headerRowsClassify : Obligations.HeaderRowsClassify := fun s flags count size =>
  ⟨congrArg Host.Outcome.next (peekFields_eq 1 flags count size s),
    congrArg Host.Outcome.next (peekFields_eq 4 flags count size s)⟩

/-- A counter moved on by `n`, as a number and as a vector. -/
theorem ofNat_toNat_add {w : Nat} (a : BitVec w) (n : Nat) : BitVec.ofNat w (a.toNat + n) = a + BitVec.ofNat w n := by
  rw [BitVec.ofNat_add, BitVec.ofNat_toNat, BitVec.setWidth_eq]

section
variable {s : State} (x y : Sample)

theorem appendPair_of_fits (h : s.nsamp.toNat + 2 ≤ 131072) :
    appendPair x y s = .next { s with rawiq := s.rawiq.writeFrom s.nsamp.toNat [x, y], nsamp := s.nsamp + 2 } := by
  have hfits : s.nsamp.toNat + 2 ≤ Config.sampleStoreSize := h
  rw [appendPair, if_pos hfits, ofNat_toNat_add]
  rfl

theorem appendPair_of_full (h : 131072 < s.nsamp.toNat + 2) : appendPair x y s = .fault .sampleStoreEnd :=
  if_neg (not_le.mpr h)

end

/-- Settles O26: the pair is a run of two writes at NSAMP, which changes the entries neither below nor above it. -/
theorem payloadWordRowAppendsPair : Obligations.PayloadWordRowAppendsPair := by
  refine ⟨fun s x y hfits => ⟨_, appendPair_of_fits x y hfits, ?_, ?_, fun j hfst hsnd => ?_, rfl⟩,
    fun s x y hfull => appendPair_of_full x y hfull⟩
  · exact Memory.read_writeFrom_at _ s.rawiq (k := 0) [x, y] Nat.zero_lt_two
  · exact Memory.read_writeFrom_at _ s.rawiq (k := 1) [x, y] Nat.one_lt_two
  · obtain hbelow | habove : j < s.nsamp.toNat ∨ s.nsamp.toNat + 2 ≤ j := by omega
    · exact Memory.read_writeFrom_of_lt _ _ hbelow _
    · exact Memory.read_writeFrom_of_ge _ _ [x, y] habove

/-- Settles O27: each row is `setTrailerPair` of its own name, or `setTrailerCount`. -/
theorem trailerRowsSetOneMember : Obligations.TrailerRowsSetOneMember :=
  ⟨fun _ _ => ⟨rfl, rfl, rfl, rfl, rfl⟩, fun _ _ => rfl⟩

/-! ### A row of the field table at CUR (R244) -/

section
variable {r : Nat} {i : Instr} {row : FieldRow} {s : State}

/-- R93: the instruction of a row presents that row at CUR, with the row's number. -/
theorem exec_of_row (hrow : Config.defaultFieldTable[r]? = some row) (hi : instrOfField row.name = some i) (s : State) :
    exec i s = .next (presentField Config.phpc r row s) := by
  have hr := lt_eighteen_of_getElem? hrow
  interval_cases r
  all_goals
    cases hrow
    cases hi
    rfl

variable (s row) in
/-- `s` after a row whose words are all supplied: the member decoded from the words at CUR, and CUR past them. -/
def rowRead : State :=
  { s with
    cur := s.cur + BitVec.ofNat 17 row.dec.width
    record := { s.record with
      ctx := s.record.ctx.set row.name
        (some (decodeValue Config.phpc row.dec fun k => memRead Config.phpc s (s.cur.toNat + k))) } }

theorem presentField_of_fits (h : row.dec.width = 0 ∨ s.cur.toNat + row.dec.width ≤ s.nIn.toNat) (r : Nat) :
    presentField Config.phpc r row s = rowRead row s := by
  rw [presentField, walkRow_present _ _ _ _ _ _ _ h, rowRead, ← ofNat_toNat_add]

/-- A row with words, all of them supplied, reads its member at CUR. -/
theorem exec_of_row_fits (hrow : Config.defaultFieldTable[r]? = some row) (hi : instrOfField row.name = some i)
    (h : s.cur.toNat + row.dec.width ≤ s.nIn.toNat) : exec i s = .next (rowRead row s) := by
  rw [exec_of_row hrow hi, presentField_of_fits (.inr h)]

theorem presentField_of_truncated (hwords : 0 < row.dec.width) (hend : s.nIn.toNat < s.cur.toNat + row.dec.width)
    (r : Nat) : presentField Config.phpc r row s =
      raiseError .decodeContext (.truncatedField (BitVec.ofNat 6 r) (BitVec.ofNat 17 s.cur.toNat)) s := by
  rw [presentField, (walkRow_eq_error_iff ..).mpr ⟨rfl, hwords, hend, rfl⟩]

end

/-- Settles O41: the row meets the bound of the walk, N_IN, and raises the walk's error. -/
theorem fieldRowsTruncateAtPacketEnd : Obligations.FieldRowsTruncateAtPacketEnd := by
  intro r i row s hrow hi hwords hend
  refine ⟨_, exec_of_row hrow hi s, ?_⟩
  have hr := lt_eighteen_of_getElem? hrow
  have hcur : errorCursor (.truncatedField (BitVec.ofNat 6 r) (BitVec.ofNat 17 s.cur.toNat)) = s.cur := by
    rw [errorCursor, BitVec.ofNat_toNat, BitVec.setWidth_eq]
  have hfailed := failedDecode_raiseError (.truncatedField (BitVec.ofNat 6 r) (BitVec.ofNat 17 s.cur.toNat)) s
  rw [errorStatus_truncatedField, errorInfo_truncatedField (by omega) s.cur.isLt, hcur] at hfailed
  rwa [presentField_of_truncated hwords hend]

/-! ### The eighteen rows (R250 to R256) -/

/-- Settles O36: rows 1, 9, 12 and 15 of the table, whose member is the word at CUR. -/
theorem oneWordRowsReadAtCursor : Obligations.OneWordRowsReadAtCursor := by
  rintro s w hfits rfl
  exact ⟨exec_of_row_fits (r := 1) rfl rfl hfits, exec_of_row_fits (r := 9) rfl rfl hfits,
    exec_of_row_fits (r := 12) rfl rfl hfits, exec_of_row_fits (r := 15) rfl rfl hfits⟩

/-- Settles O37: rows 11, 14 and 16 of the table, whose member is the two words from CUR on. -/
theorem twoWordRowsReadAtCursor : Obligations.TwoWordRowsReadAtCursor := by
  rintro s w0 w1 hfits rfl rfl
  exact ⟨exec_of_row_fits (r := 11) rfl rfl hfits, exec_of_row_fits (r := 14) rfl rfl hfits,
    exec_of_row_fits (r := 16) rfl rfl hfits⟩

/-- Settles O38: rows 2 to 6 and 10 of the table, whose member is `decFreq` of the two words from CUR on. -/
theorem frequencyRowsReadAtCursor : Obligations.FrequencyRowsReadAtCursor := by
  rintro s x hfits rfl
  exact ⟨exec_of_row_fits (r := 2) rfl rfl hfits, exec_of_row_fits (r := 3) rfl rfl hfits,
    exec_of_row_fits (r := 4) rfl rfl hfits, exec_of_row_fits (r := 5) rfl rfl hfits,
    exec_of_row_fits (r := 6) rfl rfl hfits, exec_of_row_fits (r := 10) rfl rfl hfits⟩

/-- Settles O39: rows 7, 8 and 13 of the table, whose member is `decFx16` of the word at CUR. -/
theorem sixteenBitRowsReadAtCursor : Obligations.SixteenBitRowsReadAtCursor := by
  rintro s v hfits rfl
  exact ⟨exec_of_row_fits (r := 7) rfl rfl hfits, exec_of_row_fits (r := 8) rfl rfl hfits,
    exec_of_row_fits (r := 13) rfl rfl hfits⟩

/-- Settles O40: row 0 of the table, which has no words, so that CUR stays; and row 17, whose member is `decGeo` of
the eleven words from CUR on. -/
theorem flagAndGeolocationRowsReadAtCursor : Obligations.FlagAndGeolocationRowsReadAtCursor := by
  constructor
  · intro s
    have hflag : presentField Config.phpc 0 Config.rowChangeIndicator s = rowRead Config.rowChangeIndicator s :=
      presentField_of_fits (.inl rfl) 0
    have hcur : s.cur + BitVec.ofNat 17 Config.rowChangeIndicator.dec.width = s.cur := BitVec.add_zero s.cur
    rw [exec_of_row (r := 0) rfl rfl, hflag, rowRead, hcur]
    rfl
  · intro s g hfits hg
    obtain rfl : g = fun k => memRead Config.phpc s (s.cur.toNat + k) := funext hg
    exact exec_of_row_fits (r := 17) rfl rfl hfits

end Sys2Proof.Machine
end
